-- ==== Sys2Proof/Word.lean ====
section
/-! DEFINITION. The 16-bit word of the machine (spec/00_scope.md rule R6 and section 5). -/

namespace Sys2Proof

/-- A general register, a special register, an instruction or one memory slot: 16 bits (rules R6, R10, R50). -/
abbrev Word := BitVec 16

/-- `sign(v) = v[15]` (00_scope.md section 5). -/
def sign (v : Word) : Bool := v.msb

/-- `signed(v)`: the two's-complement reading of a word (00_scope.md section 5), used only to explain Ov. -/
def signed (v : Word) : Int := v.toInt

end Sys2Proof
end

