-- ==== Sys2Proof/Syntax.lean ====
section
/-! DEFINITION. The instructions: one constructor per row of spec/opcode_table.json, with the fields the decoded variant
carries (30_encoding.md rule R65). -/

namespace Sys2Proof

/-- A general register number, R0 to R7 (10_state.md rule R10). -/
abbrev Reg := Fin 8

/-- The decoded instruction (30_encoding.md rule R65).
A jump offset is the integer `sext_9(w[10:2])` in -256..255.
An immediate is the zero-extended 16-bit operand, 0..255.
A shift amount is 0..31.
`WellFormed.lean` checks the three ranges. -/
inductive Instr where
  /-- NOP (rule R70). -/
  | nop
  /-- PSH Rt (rule R71). -/
  | psh (rt : Reg)
  /-- POP Rd (rule R72). -/
  | pop (rd : Reg)
  /-- CMP Rs, Rt (rule R73). -/
  | cmp (rs rt : Reg)
  /-- JMP off (rule R81). -/
  | jmp (off : Int)
  /-- JEQ off (rule R82). -/
  | jeq (off : Int)
  /-- JLT off (rule R83). -/
  | jlt (off : Int)
  /-- JGT off (rule R84). -/
  | jgt (off : Int)
  /-- MOV Rd, Rs (rule R90). -/
  | mov (rd rs : Reg)
  /-- MOVI, written MOV Rd, #imm (rule R91). -/
  | movi (rd : Reg) (imm : Word)
  /-- STR [Rs], Rt (rule R92). -/
  | str (rs rt : Reg)
  /-- STRI, written STR [Rs], #imm (rule R93). -/
  | stri (rs : Reg) (imm : Word)
  /-- LDR Rd, [Rs] (rule R94). -/
  | ldr (rd rs : Reg)
  /-- ADD Rd, Rs, Rt (rule R101). -/
  | add (rd rs rt : Reg)
  /-- SUB Rd, Rs, Rt (rule R102). -/
  | sub (rd rs rt : Reg)
  /-- MUL Rd, Rs, Rt (rule R103). -/
  | mul (rd rs rt : Reg)
  /-- AND Rd, Rs, Rt (rule R104). -/
  | and (rd rs rt : Reg)
  /-- OR Rd, Rs, Rt (rule R105). -/
  | or (rd rs rt : Reg)
  /-- NOT Rd, Rs (rule R106). -/
  | not (rd rs : Reg)
  /-- XOR Rd, Rs, Rt (rule R107). -/
  | xor (rd rs rt : Reg)
  /-- SHR Rd, Rs, #shamt (rule R121). -/
  | shr (rd rs : Reg) (shamt : Nat)
  /-- SHL Rd, Rs, #shamt (rule R122). -/
  | shl (rd rs : Reg) (shamt : Nat)
  /-- ROR Rd, Rs (rule R123). -/
  | ror (rd rs : Reg)
  /-- ROL Rd, Rs (rule R124). -/
  | rol (rd rs : Reg)
  /-- HALT (rule R130). -/
  | halt
  /-- The variant Unrecognized(7) (rules R62, R65). -/
  | unrecognized7
  /-- The variant Unrecognized(9) (rules R62, R65). -/
  | unrecognized9
  /-- The variant Unrecognized(11) (rules R62, R65). -/
  | unrecognized11
  /-- The variant Unrecognized(13) (rules R62, R65). -/
  | unrecognized13
  /-- The variant Unrecognized(15) (rules R62, R65). -/
  | unrecognized15
  /-- The variant Unrecognized(17) (rules R62, R65). -/
  | unrecognized17
  /-- The variant Unrecognized(19) (rules R62, R65). -/
  | unrecognized19
  /-- The variant Unrecognized(21) (rules R62, R65). -/
  | unrecognized21
  /-- The variant Unrecognized(23) (rules R62, R65). -/
  | unrecognized23
  /-- The variant Unrecognized(25) (rules R62, R65). -/
  | unrecognized25
  /-- The variant Unrecognized(27) (rules R62, R65). -/
  | unrecognized27
  /-- The variant Unrecognized(29) (rules R62, R65). -/
  | unrecognized29
  /-- The variant Unrecognized(30) (rules R62, R65). -/
  | unrecognized30
  deriving DecidableEq, Repr

/-- The raw opcode that an Unrecognized variant carries (rule R65), none for every assigned instruction. -/
def Instr.unrecognizedOpcode? : Instr → Option Nat
  | .unrecognized7 => some 7
  | .unrecognized9 => some 9
  | .unrecognized11 => some 11
  | .unrecognized13 => some 13
  | .unrecognized15 => some 15
  | .unrecognized17 => some 17
  | .unrecognized19 => some 19
  | .unrecognized21 => some 21
  | .unrecognized23 => some 23
  | .unrecognized25 => some 25
  | .unrecognized27 => some 27
  | .unrecognized29 => some 29
  | .unrecognized30 => some 30
  | .nop | .psh _ | .pop _ | .cmp _ _ | .jmp _ | .jeq _ | .jlt _ | .jgt _ | .mov _ _ | .movi _ _ | .str _ _ | .stri _ _ | .ldr _ _
  | .add _ _ _ | .sub _ _ _ | .mul _ _ _ | .and _ _ _ | .or _ _ _ | .not _ _ | .xor _ _ _ | .shr _ _ _ | .shl _ _ _ | .ror _ _ | .rol _ _ | .halt => none

/-- The general register an instruction writes, if it writes one (the list under 10_state.md rule R11). -/
def Instr.destReg? : Instr → Option Reg
  | .pop rd | .mov rd _ | .movi rd _ | .ldr rd _ => some rd
  | .add rd _ _ | .sub rd _ _ | .mul rd _ _ | .and rd _ _ | .or rd _ _ | .not rd _ | .xor rd _ _ => some rd
  | .shr rd _ _ | .shl rd _ _ | .ror rd _ | .rol rd _ => some rd
  | .nop | .psh _ | .cmp _ _ | .jmp _ | .jeq _ | .jlt _ | .jgt _ | .str _ _ | .stri _ _ | .halt => none
  | .unrecognized7 | .unrecognized9 | .unrecognized11 | .unrecognized13 | .unrecognized15 | .unrecognized17 | .unrecognized19
  | .unrecognized21 | .unrecognized23 | .unrecognized25 | .unrecognized27 | .unrecognized29 | .unrecognized30 => none

end Sys2Proof
end

