-- ==== Sys2Proof/WellFormed.lean ====
section
/-! DEFINITION. Which instructions the encoding can express (30_encoding.md rules R55 to R58).
Register numbers are in range by their type (rule R10).
Every encoding field of an instruction has a check here or is in range by its type. -/

namespace Sys2Proof

/-- `simm9` as an integer: -256..+255 (rule R56). -/
def offsetInRange (off : Int) : Bool := decide (-256 ≤ off) && decide (off ≤ 255)

/-- A zero-extended 8-bit immediate: 0..0x00FF (rules R55, R58). -/
def immInRange (imm : Word) : Bool := decide (imm.toNat ≤ 0xFF)

/-- `shamt`: 0..31 (rule R57). -/
def shamtInRange (n : Nat) : Bool := decide (n ≤ 31)

/-- The instruction has an encoding: each field is in the range of its bits. -/
def Instr.wellFormed : Instr → Bool
  | .jmp off | .jeq off | .jlt off | .jgt off => offsetInRange off
  | .movi _ imm | .stri _ imm => immInRange imm
  | .shr _ _ n | .shl _ _ n => shamtInRange n
  | .nop | .psh _ | .pop _ | .cmp _ _ | .mov _ _ | .str _ _ | .ldr _ _ => true
  | .add _ _ _ | .sub _ _ _ | .mul _ _ _ | .and _ _ _ | .or _ _ _ | .not _ _ | .xor _ _ _ => true
  | .ror _ _ | .rol _ _ | .halt => true
  | .unrecognized7 | .unrecognized9 | .unrecognized11 | .unrecognized13 | .unrecognized15 | .unrecognized17 | .unrecognized19
  | .unrecognized21 | .unrecognized23 | .unrecognized25 | .unrecognized27 | .unrecognized29 | .unrecognized30 => true

end Sys2Proof
end

