-- ==== Sys2Proof/Decode.lean ====
section
/-! DEFINITION. The decoder (30_encoding.md rules R51 to R66), the encoder written from the same tables, and the
opcode table's mask and match of every row. -/

namespace Sys2Proof

/-- `w[hi:lo]`: the unsigned integer made of bits `hi` down to `lo` of `w` (00_scope.md section 5). -/
def bits (w : Word) (hi lo : Nat) : Nat := w.toNat / 2 ^ lo % 2 ^ (hi + 1 - lo)

/-- The register whose number is the 3-bit field with lowest bit `lo` (rules R10, R51). -/
def regField (w : Word) (lo : Nat) : Reg :=
  ⟨bits w (lo + 2) lo % 8, Nat.mod_lt _ (by decide)⟩

/-- `sext_9(v)` for a nine-bit number (rule R56). -/
def sext9 (v : Nat) : Int := if v < 256 then (v : Int) else (v : Int) - 512

/-- `zext_8(v)`: an 8-bit number as a 16-bit operand (rules R55, R58). -/
def zext8 (v : Nat) : Word := BitVec.ofNat 16 v

/-- `opcode = w[15:11]` (rule R51). -/
def opcodeOf (w : Word) : Nat := bits w 15 11

/-- `sel = w[1:0]` (rule R51). -/
def selOf (w : Word) : Nat := bits w 1 0

/-- The Unrecognized variant that carries `op` (rules R62, R65).
Opcode 30 is the only unassigned value the named arms leave. -/
def unrecognizedOf (op : Nat) : Instr :=
  match op with
  | 7 => .unrecognized7
  | 9 => .unrecognized9
  | 11 => .unrecognized11
  | 13 => .unrecognized13
  | 15 => .unrecognized15
  | 17 => .unrecognized17
  | 19 => .unrecognized19
  | 21 => .unrecognized21
  | 23 => .unrecognized23
  | 25 => .unrecognized25
  | 27 => .unrecognized27
  | 29 => .unrecognized29
  | _ => .unrecognized30

/-- Opcode 0: NOP, PSH, POP, CMP by the selector (rule R60). -/
def decodeGroup0 (w : Word) : Instr :=
  match selOf w with
  | 0 => .nop
  | 1 => .psh (regField w 2)
  | 2 => .pop (regField w 8)
  | _ => .cmp (regField w 5) (regField w 2)

/-- Opcode 1: JMP, JEQ, JLT, JGT by the selector (rule R61). -/
def decodeGroup1 (w : Word) : Instr :=
  match selOf w with
  | 0 => .jmp (sext9 (bits w 10 2))
  | 1 => .jeq (sext9 (bits w 10 2))
  | 2 => .jlt (sext9 (bits w 10 2))
  | _ => .jgt (sext9 (bits w 10 2))

/-- The decoding algorithm, complete (rule R66): total on every 16-bit word, reading nothing but the word (rule R52). -/
def decode (w : Word) : Instr :=
  match opcodeOf w with
  | 0 => decodeGroup0 w
  | 1 => decodeGroup1 w
  | 2 => .mov (regField w 8) (regField w 5)
  | 3 => .movi (regField w 8) (zext8 (bits w 7 0))
  | 4 => .str (regField w 5) (regField w 2)
  | 5 => .stri (regField w 5) (zext8 (bits w 10 8 * 32 + bits w 4 0))
  | 6 => .ldr (regField w 8) (regField w 5)
  | 8 => .add (regField w 8) (regField w 5) (regField w 2)
  | 10 => .sub (regField w 8) (regField w 5) (regField w 2)
  | 12 => .mul (regField w 8) (regField w 5) (regField w 2)
  | 14 => .and (regField w 8) (regField w 5) (regField w 2)
  | 16 => .or (regField w 8) (regField w 5) (regField w 2)
  | 18 => .not (regField w 8) (regField w 5)
  | 20 => .xor (regField w 8) (regField w 5) (regField w 2)
  | 22 => .shr (regField w 8) (regField w 5) (bits w 4 0)
  | 24 => .shl (regField w 8) (regField w 5) (bits w 4 0)
  | 26 => .ror (regField w 8) (regField w 5)
  | 28 => .rol (regField w 8) (regField w 5)
  | 31 => .halt
  | op => unrecognizedOf op

/-- The instruction the decoder reads from a word given as the opcode table numbers its bits.
Every instruction is one 16-bit word (rule R50), so bits from 16 on belong to no instruction. -/
def decodeTableWord (nbits w : Nat) : Option Instr := some (decode (BitVec.ofNat 16 (w % 2 ^ nbits)))

/-! ### The encoder -/

/-- A word from an opcode, the three register fields and the selector bits (the layout under rule R51). -/
def packWord (op rd rs rt sel : Nat) : Word :=
  BitVec.ofNat 16 (op * 2048 + rd * 256 + rs * 32 + rt * 4 + sel)

/-- Format J: opcode 1, the offset mod 512 in bits 10..2, the selector (rules R54, R81). -/
def packJump (off : Int) (sel : Nat) : Word :=
  BitVec.ofNat 16 (1 * 2048 + (off % 512).toNat * 4 + sel)

/-- A word whose low five bits are one field, formats MI and SH (rules R54, R57, R58). -/
def packLow5 (op hi rs lo : Nat) : Word :=
  BitVec.ofNat 16 (op * 2048 + hi * 256 + rs * 32 + lo)

/-- The canonical encoding of an instruction: every ignored bit is 0 (rule R63). -/
def encode : Instr → Word
  | .nop => packWord 0 0 0 0 0
  | .psh rt => packWord 0 0 0 rt 1
  | .pop rd => packWord 0 rd 0 0 2
  | .cmp rs rt => packWord 0 0 rs rt 3
  | .jmp off => packJump off 0
  | .jeq off => packJump off 1
  | .jlt off => packJump off 2
  | .jgt off => packJump off 3
  | .mov rd rs => packWord 2 rd rs 0 0
  | .movi rd imm => BitVec.ofNat 16 (3 * 2048 + rd.val * 256 + imm.toNat % 256)
  | .str rs rt => packWord 4 0 rs rt 0
  | .stri rs imm => packLow5 5 (imm.toNat / 32 % 8) rs (imm.toNat % 32)
  | .ldr rd rs => packWord 6 rd rs 0 0
  | .add rd rs rt => packWord 8 rd rs rt 0
  | .sub rd rs rt => packWord 10 rd rs rt 0
  | .mul rd rs rt => packWord 12 rd rs rt 0
  | .and rd rs rt => packWord 14 rd rs rt 0
  | .or rd rs rt => packWord 16 rd rs rt 0
  | .not rd rs => packWord 18 rd rs 0 0
  | .xor rd rs rt => packWord 20 rd rs rt 0
  | .shr rd rs n => packLow5 22 rd rs (n % 32)
  | .shl rd rs n => packLow5 24 rd rs (n % 32)
  | .ror rd rs => packWord 26 rd rs 0 0
  | .rol rd rs => packWord 28 rd rs 0 0
  | .halt => packWord 31 0 0 0 0
  | .unrecognized7 => packWord 7 0 0 0 0
  | .unrecognized9 => packWord 9 0 0 0 0
  | .unrecognized11 => packWord 11 0 0 0 0
  | .unrecognized13 => packWord 13 0 0 0 0
  | .unrecognized15 => packWord 15 0 0 0 0
  | .unrecognized17 => packWord 17 0 0 0 0
  | .unrecognized19 => packWord 19 0 0 0 0
  | .unrecognized21 => packWord 21 0 0 0 0
  | .unrecognized23 => packWord 23 0 0 0 0
  | .unrecognized25 => packWord 25 0 0 0 0
  | .unrecognized27 => packWord 27 0 0 0 0
  | .unrecognized29 => packWord 29 0 0 0 0
  | .unrecognized30 => packWord 30 0 0 0 0

/-! ### The rows of spec/opcode_table.json -/

/-- The row's `mask`: the bits its `match` fixes. -/
def Instr.tableMask : Instr → Word
  | .nop | .psh _ | .pop _ | .cmp _ _ | .jmp _ | .jeq _ | .jlt _ | .jgt _ => 0xF803
  | .mov _ _ | .movi _ _ | .str _ _ | .stri _ _ | .ldr _ _ => 0xF800
  | .add _ _ _ | .sub _ _ _ | .mul _ _ _ | .and _ _ _ | .or _ _ _ | .not _ _ | .xor _ _ _ => 0xF800
  | .shr _ _ _ | .shl _ _ _ | .ror _ _ | .rol _ _ | .halt => 0xF800
  | .unrecognized7 | .unrecognized9 | .unrecognized11 | .unrecognized13 | .unrecognized15 | .unrecognized17 | .unrecognized19
  | .unrecognized21 | .unrecognized23 | .unrecognized25 | .unrecognized27 | .unrecognized29 | .unrecognized30 => 0xF800

/-- The row's `match`: the value of the fixed bits. -/
def Instr.tableMatch : Instr → Word
  | .nop => 0x0000
  | .psh _ => 0x0001
  | .pop _ => 0x0002
  | .cmp _ _ => 0x0003
  | .jmp _ => 0x0800
  | .jeq _ => 0x0801
  | .jlt _ => 0x0802
  | .jgt _ => 0x0803
  | .mov _ _ => 0x1000
  | .movi _ _ => 0x1800
  | .str _ _ => 0x2000
  | .stri _ _ => 0x2800
  | .ldr _ _ => 0x3000
  | .add _ _ _ => 0x4000
  | .sub _ _ _ => 0x5000
  | .mul _ _ _ => 0x6000
  | .and _ _ _ => 0x7000
  | .or _ _ _ => 0x8000
  | .not _ _ => 0x9000
  | .xor _ _ _ => 0xA000
  | .shr _ _ _ => 0xB000
  | .shl _ _ _ => 0xC000
  | .ror _ _ => 0xD000
  | .rol _ _ => 0xE000
  | .halt => 0xF800
  | .unrecognized7 => 0x3800
  | .unrecognized9 => 0x4800
  | .unrecognized11 => 0x5800
  | .unrecognized13 => 0x6800
  | .unrecognized15 => 0x7800
  | .unrecognized17 => 0x8800
  | .unrecognized19 => 0x9800
  | .unrecognized21 => 0xA800
  | .unrecognized23 => 0xB800
  | .unrecognized25 => 0xC800
  | .unrecognized27 => 0xD800
  | .unrecognized29 => 0xE800
  | .unrecognized30 => 0xF000

/-- The bits the decoder looks at for this instruction: all but those rule R54 marks `-` (rule R63). -/
def Instr.usedBits : Instr → Word
  | .nop => 0xF803
  | .psh _ => 0xF81F
  | .pop _ => 0xFF03
  | .cmp _ _ => 0xF8FF
  | .jmp _ | .jeq _ | .jlt _ | .jgt _ => 0xFFFF
  | .movi _ _ | .stri _ _ | .shr _ _ _ | .shl _ _ _ => 0xFFFF
  | .mov _ _ | .ldr _ _ | .not _ _ | .ror _ _ | .rol _ _ => 0xFFE0
  | .str _ _ => 0xF8FC
  | .add _ _ _ | .sub _ _ _ | .mul _ _ _ | .and _ _ _ | .or _ _ _ | .xor _ _ _ => 0xFFFC
  | .halt => 0xF800
  | .unrecognized7 | .unrecognized9 | .unrecognized11 | .unrecognized13 | .unrecognized15 | .unrecognized17 | .unrecognized19
  | .unrecognized21 | .unrecognized23 | .unrecognized25 | .unrecognized27 | .unrecognized29 | .unrecognized30 => 0xF800

end Sys2Proof
end

