-- ==== Sys2Proof/Config.lean ====
section
/-! DEFINITION. The two open parameters of the machine, STACK_BASE and PC_END (00_scope.md rule R7).

The spec gives neither a value and says that a model takes each as an argument.
So they stand in one record that the state carries and that no step changes: what is said about every state is said about
every value of both (notes/assumptions/1.md). -/

namespace Sys2Proof

/-- The open parameters of rule R7. -/
structure Params where
  /-- `STACK_BASE`: the value `sp` holds at reset and the upper bound of the stack window (rules R7, R16). -/
  stackBase : Word
  /-- `PC_END`: the end-of-program sentinel, a natural number up to 0x10000 (rules R7, R153). -/
  pcEnd : Nat
  deriving DecidableEq, Repr

/-- The constraints rule R7 puts on the parameters: `16 <= STACK_BASE <= 0xFFFF` and `0 <= PC_END <= 0x10000`. -/
abbrev Params.valid (p : Params) : Prop := 16 ≤ p.stackBase.toNat ∧ p.pcEnd ≤ 0x10000

/-- `PC_END` of the machine whose reset state is `Machine.State.reset`, as a number from 0 to 0x10000 (rule R7).
UNVERIFIED: the spec gives no number (D9, U4), so this constant has no body and nothing can be proved of its value
(notes/assumptions/2.md). -/
opaque Config.pcEndIndex : Fin 65537

end Sys2Proof
end

