-- ==== Sys2Proof/Machine/ResetParams.lean ====
section
/-! DEFINITION. The parameters of the machine whose reset state is `Machine.State.reset`. -/

namespace Sys2Proof.Machine

/-- `STACK_BASE`, the value `sp` holds at reset (rules R7, R25).
PRESUMED: the spec gives no number (D10); this is the one it names as the family's common value and writes its vectors
with (93_implementation_defined.md Part 2 row 7, notes/assumptions/3.md). -/
def resetStackBase : Word := 0x8200

/-- STACK_BASE as named above, PC_END left open. -/
def resetParams : Params := { stackBase := resetStackBase, pcEnd := Config.pcEndIndex.val }

end Sys2Proof.Machine
end

