-- ==== Sys2Proof/Machine/State.lean ====
section
/-! DEFINITION. The architectural state (10_state.md rules R10 to R25), the reasons a step can stop, and reset. -/

namespace Sys2Proof.Machine

/-- The four independent condition flags (rule R17): Carry, Overflow, Zero, Sign. -/
structure Flags where
  /-- Carry, `C`. -/
  c : Bool
  /-- Overflow, `Ov`. -/
  ov : Bool
  /-- Zero, `Z`. -/
  z : Bool
  /-- Sign, `S`. -/
  s : Bool
  deriving DecidableEq, Repr

/-- The cause Halted-Fault carries (rules R19, R142): the names are the codes (D18). -/
inductive FaultCause where
  /-- PSH on a full stack or POP on an empty one (rule R143). -/
  | stackFault
  /-- An unassigned opcode was executed (rule R144). -/
  | unrecognizedOpcode
  deriving DecidableEq, Repr

/-- The run state of the Execution Engine (rule R19). -/
inductive RunState where
  /-- Running: the only state with a next instruction. -/
  | running
  /-- Halted-Normal: HALT or the sentinel (rules R130, R153). -/
  | haltedNormal
  /-- Halted-Fault with its cause (rule R141). -/
  | haltedFault (cause : FaultCause)
  deriving DecidableEq, Repr

/-- One listed memory slot: its address and its 16-bit word (rules R21, R22, R36). -/
abbrev Slot := Nat × Word

/-- A memory of 65536 sixteen-bit slots, as the slots whose word is not 0, addresses strictly rising.
A slot that is not listed reads as 0x0000, the reset contents (rule R25). -/
abbrev Memory := List Slot

/-- What an unlisted slot of program or data memory reads as: 0 (rules R25, R43). -/
def Memory.unlisted : Word := 0#16

/-- The listed addresses are strictly rising, each above `low` if there is one, each a 16-bit address,
and no listed word is the unlisted one. -/
def Memory.wfFrom : Nat → Memory → Bool
  | _, [] => true
  | low, (a, w) :: m => decide (low ≤ a) && decide (a < 0x10000) && decide (w ≠ Memory.unlisted) && Memory.wfFrom (a + 1) m

/-- The one canonical form of a memory: equal memories are equal lists. -/
def Memory.wf (m : Memory) : Bool := Memory.wfFrom 0 m

/-- The whole state of the machine. -/
structure State where
  /-- R0 to R7 (rule R10). -/
  regs : Vector Word 8
  /-- The Program Counter (rule R12). -/
  pc : Word
  /-- The Link Register, storage only (rule R14). -/
  lr : Word
  /-- The Stack Pointer (rule R15). -/
  sp : Word
  /-- C, Ov, Z, S (rule R17). -/
  flags : Flags
  /-- The run state with its fault cause (rule R19). -/
  runState : RunState
  /-- Program memory, reached only by fetch and the load port (rule R21). -/
  progMem : Memory
  /-- Data memory, reached only by LDR, STR and STRI (rule R22). -/
  dataMem : Memory
  /-- The eight stack slots, reached only by PSH and POP (rule R23). -/
  stack : Vector Word 8
  /-- STACK_BASE and PC_END: parameters of the machine (rule R7), constant under every step.
  The model's own field, not the spec's state (rule R24, notes/assumptions/1.md). -/
  params : Params
  deriving DecidableEq, Repr

/-- Why the model stops without a next state. -/
inductive Fault where
  /-- PSH or POP finds an `sp` that is none of the nine values of rule R16, so that the stack slot of rule R40 does not
  exist and the spec gives the instruction no effect.
  Raised by PSH and POP alone.
  Safe: no run from reset reaches such an `sp` (rule R16). -/
  | stackPointerOutsideWindow
  deriving DecidableEq, Repr

/-- Why the model declines an instruction. -/
inductive Refusal where
  /-- The instruction of this mnemonic has no meaning in the model.
  Raised by no arm of `exec`: every row of the opcode table has its meaning.
  Safe. -/
  | notModelled (mnemonic : String)
  deriving DecidableEq, Repr

/-- What a step or an instruction answers. -/
abbrev Outcome := Host.Outcome State Fault Refusal

/-- The reset state of the machine with parameters `p` (rules R25, R160): registers, flags and all three memories zero,
`sp = STACK_BASE`, Running. -/
def State.resetWith (p : Params) : State :=
  { regs := Vector.replicate 8 0#16
    pc := 0#16
    lr := 0#16
    sp := p.stackBase
    flags := { c := false, ov := false, z := false, s := false }
    runState := .running
    progMem := []
    dataMem := []
    stack := Vector.replicate 8 0#16
    params := p }

/-- The machine right after reset (rule R25), for the parameters of `ResetParams.lean`. -/
def State.reset : State := State.resetWith resetParams

end Sys2Proof.Machine
end

