-- ==== Sys2Proof/Machine/Flags.lean ====
section
/-! DEFINITION. The ALU: result and flag computation of every operation (43_alu.md rules R100 to R108) and the two flags
of CMP (40_stack_compare.md rule R73). -/

namespace Sys2Proof.Machine

/-- The operation kinds of the ALU (rule R100). -/
inductive AluOp where
  | add | sub | mul | and | or | not | xor
  deriving DecidableEq, Repr

/-- `Z = 1` iff the 16-bit result is 0 (rule R100). -/
def zeroFlag (r : Word) : Bool := decide (r = 0#16)

/-- `S = 1` iff bit 15 of the result is 1 (rule R100). -/
def signFlag (r : Word) : Bool := sign r

/-- Ov of ADD: the operands have the same sign and the result's sign differs from theirs (rule R101). -/
def addOverflow (a b r : Word) : Bool := (sign a == sign b) && (sign r != sign a)

/-- Ov of SUB: the operands' signs differ and the result's sign differs from the minuend's (rule R102). -/
def subOverflow (a b r : Word) : Bool := (sign a != sign b) && (sign r != sign a)

/-- Ov of MUL, by the formula rule R103 adopts as its definition.
DEDUCED: the spec's own decision D17, not signed overflow (U1, notes/assumptions/8.md). -/
def mulOverflow (a b r : Word) : Bool := (sign a == sign b) && (sign r != sign a)

/-- The 16-bit result: the exact integer result reduced mod 2^16, or the bitwise result (rules R101 to R108).
NOT looks at its first operand only (rule R106). -/
def aluResult : AluOp → Word → Word → Word
  | .add, a, b => BitVec.ofNat 16 (a.toNat + b.toNat)
  | .sub, a, b => BitVec.ofInt 16 ((a.toNat : Int) - (b.toNat : Int))
  | .mul, a, b => BitVec.ofNat 16 (a.toNat * b.toNat)
  | .and, a, b => a &&& b
  | .or, a, b => a ||| b
  | .not, a, _ => BitVec.ofNat 16 (0xFFFF - a.toNat)
  | .xor, a, b => a ^^^ b

/-- C: the exact sum or product exceeds 0xFFFF, the subtraction borrows, 0 for logic (rules R101 to R107). -/
def aluCarry : AluOp → Word → Word → Bool
  | .add, a, b => decide (a.toNat + b.toNat > 0xFFFF)
  | .sub, a, b => decide (a.toNat < b.toNat)
  | .mul, a, b => decide (a.toNat * b.toNat > 0xFFFF)
  | .and, _, _ | .or, _, _ | .not, _, _ | .xor, _, _ => false

/-- Ov per operation, 0 for logic (rules R101 to R107). -/
def aluOverflow : AluOp → Word → Word → Bool
  | .add, a, b => addOverflow a b (aluResult .add a b)
  | .sub, a, b => subOverflow a b (aluResult .sub a b)
  | .mul, a, b => mulOverflow a b (aluResult .mul a b)
  | .and, _, _ | .or, _, _ | .not, _, _ | .xor, _, _ => false

/-- The flag update of the ALU, a function of the operation and the operands alone (rule R100). -/
def aluFlags (op : AluOp) (a b : Word) : Flags :=
  { c := aluCarry op a b
    ov := aluOverflow op a b
    z := zeroFlag (aluResult op a b)
    s := signFlag (aluResult op a b) }

/-- CMP: Z is equality, S is unsigned less-than, C and Ov are left as they are (rule R73). -/
def cmpFlags (a b : Word) (old : Flags) : Flags :=
  { old with z := decide (a = b), s := decide (a.toNat < b.toNat) }

/-- JEQ's condition, Z and not S (rule R82). -/
def Flags.isEqual (f : Flags) : Bool := f.z && !f.s

/-- JLT's condition, not Z and S (rule R83). -/
def Flags.isLess (f : Flags) : Bool := !f.z && f.s

/-- JGT's condition, not Z and not S (rule R84). -/
def Flags.isGreater (f : Flags) : Bool := !f.z && !f.s

end Sys2Proof.Machine
end

