-- ==== Sys2Proof/Machine/Ops.lean ====
section
/-! DEFINITION. The named operations over registers, the three memories, the stack and the run state; entering
Halted-Fault as one shared operation. -/

namespace Sys2Proof.Machine

/-! ### Memories -/

/-- The word of the slot at address `a` (rule R43): a listed word, else the unlisted one. -/
def Memory.read : Memory → Nat → Word
  | [], _ => Memory.unlisted
  | (b, w) :: m, a => if a = b then w else Memory.read m a

/-- The memory without an entry at `a`. -/
def Memory.erase : Memory → Nat → Memory
  | [], _ => []
  | (b, w) :: m, a => if a = b then Memory.erase m a else (b, w) :: Memory.erase m a

/-- The memory with an entry put before the first greater address. -/
def Memory.insert : Memory → Nat → Word → Memory
  | [], a, v => [(a, v)]
  | (b, w) :: m, a, v => if a < b then (a, v) :: (b, w) :: m else (b, w) :: Memory.insert m a v

/-- Writes the slot at address `a`, keeping the canonical form: the unlisted word leaves no entry. -/
def Memory.write (m : Memory) (a : Nat) (v : Word) : Memory :=
  if v = Memory.unlisted then Memory.erase m a else Memory.insert (Memory.erase m a) a v

/-! ### Reads of the state -/

/-- `x[i]` (00_scope.md section 5, rule R10). -/
def State.reg (s : State) (r : Reg) : Word := s.regs[r]

/-- `ProgRead(a)` (rules R21, R34). -/
def State.progRead (s : State) (a : Word) : Word := s.progMem.read a.toNat

/-- `MemRead(a, 1)` (rules R22, R31). -/
def State.dataRead (s : State) (a : Word) : Word := s.dataMem.read a.toNat

/-- `StackRead(k)` (rule R23). -/
def State.stackRead (s : State) (k : Fin 8) : Word := s.stack[k]

/-- The word the step fetches: the slot at `pc`, whatever its parity (rules R34, R35, D14). -/
def State.fetch (s : State) : Word := s.progRead s.pc

/-- The sentinel test `pc >= PC_END`, unsigned (rules R140, R153). -/
def State.atSentinel (s : State) : Bool := decide (s.params.pcEnd ≤ s.pc.toNat)

/-! ### Writes of the state -/

/-- `x[i] <- v` (rule R10). -/
def State.setReg (s : State) (r : Reg) (v : Word) : State := { s with regs := s.regs.set r v }

/-- Writes all four flags. -/
def State.setFlags (s : State) (f : Flags) : State := { s with flags := f }

/-- `pc <- target` (rule R12). -/
def State.setPc (s : State) (target : Word) : State := { s with pc := target }

/-- `sp <- v` (rule R15). -/
def State.setSp (s : State) (v : Word) : State := { s with sp := v }

/-- Enters a run state (rule R141). -/
def State.setRunState (s : State) (r : RunState) : State := { s with runState := r }

/-- `MemWrite(a, 1, v)` (rules R22, R31). -/
def State.dataWrite (s : State) (a v : Word) : State := { s with dataMem := s.dataMem.write a.toNat v }

/-- `StackWrite(k, v)` (rule R23). -/
def State.stackWrite (s : State) (k : Fin 8) (v : Word) : State := { s with stack := s.stack.set k v }

/-- The default commit, `pc <- (pc + 2) mod 2^16` (rule R13, D8). -/
def State.advance (s : State) : State := s.setPc (BitVec.ofNat 16 (s.pc.toNat + 2))

/-! ### Halting and faulting -/

/-- Halted-Normal, `pc` as it stands (rules R130, R153). -/
def State.haltNormal (s : State) : State := s.setRunState .haltedNormal

/-- Taking an exception: `raise cause` discards every write of the step and enters Halted-Fault (rules R140, R145).
Nothing is saved and control goes nowhere: there is no handler, no vector and no saved register (rule R148).
There is no return from a fault (rule R149): only a reset, `State.resetWith`, leaves Halted-Fault (rule R160). -/
def State.raise (s : State) (cause : FaultCause) : State := s.setRunState (.haltedFault cause)

/-! ### The stack -/

/-- `slot(a) = (STACK_BASE - a) / 2 - 1`, for the eight values `a` rule R40 gives a slot, none for any other. -/
def slotOf (base a : Word) : Option (Fin 8) :=
  if h : a.toNat + 2 ≤ base.toNat ∧ base.toNat ≤ a.toNat + 16 ∧ (base.toNat - a.toNat) % 2 = 0 then
    some ⟨(base.toNat - a.toNat) / 2 - 1, by omega⟩
  else none

/-- What a push or a pop answers. -/
inductive StackResult (α : Type) where
  /-- The operation was done. -/
  | done (a : α)
  /-- The stack was full, or empty: StackFault (rules R38, R39). -/
  | stackFault
  /-- `sp` is outside the window of rule R16: there is no slot. -/
  | noSlot
  deriving Repr

/-- The stack is full: `sp = STACK_BASE - 16` (rule R37). -/
def State.stackFull (s : State) : Bool := decide (s.sp = s.params.stackBase - 16#16)

/-- The stack is empty: `sp = STACK_BASE` (rule R37). -/
def State.stackEmpty (s : State) : Bool := decide (s.sp = s.params.stackBase)

/-- `push(value)` (rule R38): the slot is that of the `sp` after the decrement (rule R40). -/
def State.push (s : State) (v : Word) : StackResult State :=
  if s.stackFull then .stackFault
  else
    match slotOf s.params.stackBase (s.sp - 2#16) with
    | some k => .done ((s.stackWrite k v).setSp (s.sp - 2#16))
    | none => .noSlot

/-- `pop()` (rule R39): the slot is that of the `sp` before the increment (rule R40), and keeps its contents. -/
def State.pop (s : State) : StackResult (Word × State) :=
  if s.stackEmpty then .stackFault
  else
    match slotOf s.params.stackBase s.sp with
    | some k => .done (s.stackRead k, s.setSp (s.sp + 2#16))
    | none => .noSlot

end Sys2Proof.Machine
end

