-- ==== Sys2Proof/Machine/Operands.lean ====
section
/-! DEFINITION. The operand forms: effective address, jump target, shift and rotate; and the write-back of the ALU. -/

namespace Sys2Proof.Machine

/-- The effective address of LDR, STR and STRI: the register value as it stands (rule R32). -/
def State.effectiveAddress (s : State) (rs : Reg) : Word := s.reg rs

/-- The target of a jump: `(pc + off) mod 2^16`, `pc` the address of the jump itself (rule R80, D7, D8). -/
def jumpTarget (pc : Word) (off : Int) : Word := BitVec.ofInt 16 ((pc.toNat : Int) + off)

/-- A jump: the target if the condition holds, the default next pc if not (rules R80 to R84). -/
def State.jumpIf (s : State) (taken : Bool) (off : Int) : State :=
  if taken then s.setPc (jumpTarget s.pc off) else s.advance

/-- `SHR`: `floor(v / 2^n)`, 0 from 16 on (rule R121). -/
def shiftRight (v : Word) (n : Nat) : Word := if 16 ≤ n then 0#16 else BitVec.ofNat 16 (v.toNat / 2 ^ n)

/-- `SHL`: `(v * 2^n) mod 2^16`, 0 from 16 on (rule R122). -/
def shiftLeft (v : Word) (n : Nat) : Word := if 16 ≤ n then 0#16 else BitVec.ofNat 16 (v.toNat * 2 ^ n)

/-- `ROR`: `{ v[0], v[15:1] }` (rule R123). -/
def rotateRight (v : Word) : Word := BitVec.ofNat 16 (v.toNat % 2 * 0x8000 + v.toNat / 2)

/-- `ROL`: `{ v[14:0], v[15] }` (rule R124). -/
def rotateLeft (v : Word) : Word := BitVec.ofNat 16 (v.toNat % 0x8000 * 2 + v.toNat / 0x8000)

/-- Writes a result register and commits the default next pc. -/
def State.writeBack (s : State) (rd : Reg) (v : Word) : State := (s.setReg rd v).advance

/-- Runs the ALU on two operands: result to `rd`, all four flags written, default next pc (rule R100). -/
def State.aluWriteBack (s : State) (op : AluOp) (rd : Reg) (a b : Word) : State :=
  (s.setFlags (aluFlags op a b)).writeBack rd (aluResult op a b)

end Sys2Proof.Machine
end

