-- ==== Sys2Proof/Machine/Alu.lean ====
section
/-! DEFINITION. ADD, SUB, MUL, AND, OR, NOT, XOR (43_alu.md). -/

namespace Sys2Proof.Machine

/-- ADD Rd, Rs, Rt (rule R101). -/
def execAdd (rd rs rt : Reg) (s : State) : Outcome := .next (s.aluWriteBack .add rd (s.reg rs) (s.reg rt))

/-- SUB Rd, Rs, Rt (rule R102). -/
def execSub (rd rs rt : Reg) (s : State) : Outcome := .next (s.aluWriteBack .sub rd (s.reg rs) (s.reg rt))

/-- MUL Rd, Rs, Rt (rule R103). -/
def execMul (rd rs rt : Reg) (s : State) : Outcome := .next (s.aluWriteBack .mul rd (s.reg rs) (s.reg rt))

/-- AND Rd, Rs, Rt (rule R104). -/
def execAnd (rd rs rt : Reg) (s : State) : Outcome := .next (s.aluWriteBack .and rd (s.reg rs) (s.reg rt))

/-- OR Rd, Rs, Rt (rule R105). -/
def execOr (rd rs rt : Reg) (s : State) : Outcome := .next (s.aluWriteBack .or rd (s.reg rs) (s.reg rt))

/-- NOT Rd, Rs (rule R106): the ALU's second operand is not looked at. -/
def execNot (rd rs : Reg) (s : State) : Outcome := .next (s.aluWriteBack .not rd (s.reg rs) 0#16)

/-- XOR Rd, Rs, Rt (rule R107). -/
def execXor (rd rs rt : Reg) (s : State) : Outcome := .next (s.aluWriteBack .xor rd (s.reg rs) (s.reg rt))

end Sys2Proof.Machine
end

