-- ==== Sys2Proof/Machine/Jumps.lean ====
section
/-! DEFINITION. The opcode 1 group: JMP, JEQ, JLT, JGT (41_jumps.md). -/

namespace Sys2Proof.Machine

/-- JMP off (rule R81). -/
def execJmp (off : Int) (s : State) : Outcome := .next (s.jumpIf true off)

/-- JEQ off (rule R82). -/
def execJeq (off : Int) (s : State) : Outcome := .next (s.jumpIf s.flags.isEqual off)

/-- JLT off (rule R83). -/
def execJlt (off : Int) (s : State) : Outcome := .next (s.jumpIf s.flags.isLess off)

/-- JGT off (rule R84). -/
def execJgt (off : Int) (s : State) : Outcome := .next (s.jumpIf s.flags.isGreater off)

end Sys2Proof.Machine
end

