-- ==== Sys2Proof/Machine/MoveMemory.lean ====
section
/-! DEFINITION. Moves, stores and the load: MOV, MOVI, STR, STRI, LDR (42_move_memory.md). -/

namespace Sys2Proof.Machine

/-- MOV Rd, Rs (rule R90). -/
def execMov (rd rs : Reg) (s : State) : Outcome := .next (s.writeBack rd (s.reg rs))

/-- MOVI: MOV Rd, #imm (rule R91), `imm` the zero-extended operand. -/
def execMovi (rd : Reg) (imm : Word) (s : State) : Outcome := .next (s.writeBack rd imm)

/-- STR [Rs], Rt (rule R92). -/
def execStr (rs rt : Reg) (s : State) : Outcome :=
  .next (s.dataWrite (s.effectiveAddress rs) (s.reg rt)).advance

/-- STRI: STR [Rs], #imm (rule R93), `imm` the zero-extended value. -/
def execStri (rs : Reg) (imm : Word) (s : State) : Outcome :=
  .next (s.dataWrite (s.effectiveAddress rs) imm).advance

/-- LDR Rd, [Rs] (rule R94). -/
def execLdr (rd rs : Reg) (s : State) : Outcome :=
  .next (s.writeBack rd (s.dataRead (s.effectiveAddress rs)))

end Sys2Proof.Machine
end

