-- ==== Sys2Proof/Machine/ShiftRotate.lean ====
section
/-! DEFINITION. SHR, SHL, ROR, ROL (44_shift_rotate.md): no flag is written (rule R120). -/

namespace Sys2Proof.Machine

/-- SHR Rd, Rs, #shamt (rule R121). -/
def execShr (rd rs : Reg) (shamt : Nat) (s : State) : Outcome := .next (s.writeBack rd (shiftRight (s.reg rs) shamt))

/-- SHL Rd, Rs, #shamt (rule R122). -/
def execShl (rd rs : Reg) (shamt : Nat) (s : State) : Outcome := .next (s.writeBack rd (shiftLeft (s.reg rs) shamt))

/-- ROR Rd, Rs (rule R123). -/
def execRor (rd rs : Reg) (s : State) : Outcome := .next (s.writeBack rd (rotateRight (s.reg rs)))

/-- ROL Rd, Rs (rule R124). -/
def execRol (rd rs : Reg) (s : State) : Outcome := .next (s.writeBack rd (rotateLeft (s.reg rs)))

end Sys2Proof.Machine
end

