-- ==== Sys2Proof/Machine/StackCompare.lean ====
section
/-! DEFINITION. The opcode 0 group: NOP, PSH, POP, CMP (40_stack_compare.md). -/

namespace Sys2Proof.Machine

/-- NOP (rule R70): only `pc` advances (90_conflicts.md C2). -/
def execNop (s : State) : Outcome := .next s.advance

/-- PSH Rt (rule R71). -/
def execPsh (rt : Reg) (s : State) : Outcome :=
  match s.push (s.reg rt) with
  | .done t => .next t.advance
  | .stackFault => .next (s.raise .stackFault)
  | .noSlot => .fault .stackPointerOutsideWindow

/-- POP Rd (rule R72). -/
def execPop (rd : Reg) (s : State) : Outcome :=
  match s.pop with
  | .done (v, t) => .next (t.writeBack rd v)
  | .stackFault => .next (s.raise .stackFault)
  | .noSlot => .fault .stackPointerOutsideWindow

/-- CMP Rs, Rt (rule R73). -/
def execCmp (rs rt : Reg) (s : State) : Outcome :=
  .next (s.setFlags (cmpFlags (s.reg rs) (s.reg rt) s.flags)).advance

end Sys2Proof.Machine
end

