-- ==== Sys2Proof/Machine/System.lean ====
section
/-! DEFINITION. HALT (45_halt.md) and the thirteen Unrecognized variants (30_encoding.md rule R62, 60_exceptions.md
rule R144). -/

namespace Sys2Proof.Machine

/-- HALT (rule R130): the default next pc is committed and the run ends normally. -/
def execHalt (s : State) : Outcome := .next s.advance.haltNormal

/-- Executing an Unrecognized variant raises UnrecognizedOpcode: no state but the run state changes (rule R144). -/
def raiseUnrecognized (s : State) : Outcome := .next (s.raise .unrecognizedOpcode)

/-- Unrecognized(7) (rules R62, R144). -/
def execUnrecognized7 (s : State) : Outcome := raiseUnrecognized s

/-- Unrecognized(9) (rules R62, R144). -/
def execUnrecognized9 (s : State) : Outcome := raiseUnrecognized s

/-- Unrecognized(11) (rules R62, R144). -/
def execUnrecognized11 (s : State) : Outcome := raiseUnrecognized s

/-- Unrecognized(13) (rules R62, R144). -/
def execUnrecognized13 (s : State) : Outcome := raiseUnrecognized s

/-- Unrecognized(15) (rules R62, R144). -/
def execUnrecognized15 (s : State) : Outcome := raiseUnrecognized s

/-- Unrecognized(17) (rules R62, R144). -/
def execUnrecognized17 (s : State) : Outcome := raiseUnrecognized s

/-- Unrecognized(19) (rules R62, R144). -/
def execUnrecognized19 (s : State) : Outcome := raiseUnrecognized s

/-- Unrecognized(21) (rules R62, R144). -/
def execUnrecognized21 (s : State) : Outcome := raiseUnrecognized s

/-- Unrecognized(23) (rules R62, R144). -/
def execUnrecognized23 (s : State) : Outcome := raiseUnrecognized s

/-- Unrecognized(25) (rules R62, R144). -/
def execUnrecognized25 (s : State) : Outcome := raiseUnrecognized s

/-- Unrecognized(27) (rules R62, R144). -/
def execUnrecognized27 (s : State) : Outcome := raiseUnrecognized s

/-- Unrecognized(29) (rules R62, R144). -/
def execUnrecognized29 (s : State) : Outcome := raiseUnrecognized s

/-- Unrecognized(30) (rules R62, R144). -/
def execUnrecognized30 (s : State) : Outcome := raiseUnrecognized s

end Sys2Proof.Machine
end

