-- ==== Sys2Proof/Machine/Dispatch.lean ====
section
/-! DEFINITION. One arm per constructor of Instr (60_exceptions.md rule R140 point 4). -/

namespace Sys2Proof.Machine

/-- What an instruction does to the state it is executed in: the next state with its own pc commit. -/
def exec (i : Instr) (s : State) : Host.Outcome State Fault Refusal :=
  match i with
  | .nop => Sys2Proof.Machine.execNop s
  | .psh rt => Sys2Proof.Machine.execPsh rt s
  | .pop rd => Sys2Proof.Machine.execPop rd s
  | .cmp rs rt => Sys2Proof.Machine.execCmp rs rt s
  | .jmp off => Sys2Proof.Machine.execJmp off s
  | .jeq off => Sys2Proof.Machine.execJeq off s
  | .jlt off => Sys2Proof.Machine.execJlt off s
  | .jgt off => Sys2Proof.Machine.execJgt off s
  | .mov rd rs => Sys2Proof.Machine.execMov rd rs s
  | .movi rd imm => Sys2Proof.Machine.execMovi rd imm s
  | .str rs rt => Sys2Proof.Machine.execStr rs rt s
  | .stri rs imm => Sys2Proof.Machine.execStri rs imm s
  | .ldr rd rs => Sys2Proof.Machine.execLdr rd rs s
  | .add rd rs rt => Sys2Proof.Machine.execAdd rd rs rt s
  | .sub rd rs rt => Sys2Proof.Machine.execSub rd rs rt s
  | .mul rd rs rt => Sys2Proof.Machine.execMul rd rs rt s
  | .and rd rs rt => Sys2Proof.Machine.execAnd rd rs rt s
  | .or rd rs rt => Sys2Proof.Machine.execOr rd rs rt s
  | .not rd rs => Sys2Proof.Machine.execNot rd rs s
  | .xor rd rs rt => Sys2Proof.Machine.execXor rd rs rt s
  | .shr rd rs shamt => Sys2Proof.Machine.execShr rd rs shamt s
  | .shl rd rs shamt => Sys2Proof.Machine.execShl rd rs shamt s
  | .ror rd rs => Sys2Proof.Machine.execRor rd rs s
  | .rol rd rs => Sys2Proof.Machine.execRol rd rs s
  | .halt => Sys2Proof.Machine.execHalt s
  | .unrecognized7 => Sys2Proof.Machine.execUnrecognized7 s
  | .unrecognized9 => Sys2Proof.Machine.execUnrecognized9 s
  | .unrecognized11 => Sys2Proof.Machine.execUnrecognized11 s
  | .unrecognized13 => Sys2Proof.Machine.execUnrecognized13 s
  | .unrecognized15 => Sys2Proof.Machine.execUnrecognized15 s
  | .unrecognized17 => Sys2Proof.Machine.execUnrecognized17 s
  | .unrecognized19 => Sys2Proof.Machine.execUnrecognized19 s
  | .unrecognized21 => Sys2Proof.Machine.execUnrecognized21 s
  | .unrecognized23 => Sys2Proof.Machine.execUnrecognized23 s
  | .unrecognized25 => Sys2Proof.Machine.execUnrecognized25 s
  | .unrecognized27 => Sys2Proof.Machine.execUnrecognized27 s
  | .unrecognized29 => Sys2Proof.Machine.execUnrecognized29 s
  | .unrecognized30 => Sys2Proof.Machine.execUnrecognized30 s

end Sys2Proof.Machine
end

