-- ==== Sys2Proof/Machine/Ports.lean ====
section
/-! DEFINITION. The ports of the host interface (70_reset_and_hazards.md rules R160 to R167): load, boot, status, observe.
The reset port is `State.resetWith`, the run port is the step. -/

namespace Sys2Proof.Machine

/-- The load port (rule R163): writes one program memory slot and nothing else, testing nothing.
It is the host's, and is used only between reset and the first step (rule R162). -/
def State.load (s : State) (addr value : Word) : State := { s with progMem := s.progMem.write addr.toNat value }

/-- The image's directives applied in file order (rule R163): a later directive for the same address wins. -/
def State.loadImage (s : State) (image : List (Word × Word)) : State :=
  image.foldl (fun t d => t.load d.1 d.2) s

/-- Reset, then the whole image loaded: the state before the first step (rule R162). -/
def State.boot (p : Params) (image : List (Word × Word)) : State := (State.resetWith p).loadImage image

/-- The run has ended (rule R155). -/
def State.halted (s : State) : Bool := decide (s.runState ≠ .running)

/-- Whether the host's exit status is 0 (rule R151): yes after Halted-Normal, no after Halted-Fault, nothing while
Running.
Which nonzero value a fault gives is not specified (U7). -/
def State.exitStatusIsZero? (s : State) : Option Bool :=
  match s.runState with
  | .running => none
  | .haltedNormal => some true
  | .haltedFault _ => some false

/-- What the observation port shows (rule R166). -/
structure Report where
  /-- R0 to R7. -/
  regs : Vector Word 8
  /-- The Program Counter. -/
  pc : Word
  /-- The Link Register. -/
  lr : Word
  /-- The Stack Pointer. -/
  sp : Word
  /-- The four flags. -/
  flags : Flags
  /-- Every data-memory address whose value is nonzero, with the value. -/
  data : List (Nat × Word)
  /-- Every stack slot. -/
  stack : Vector Word 8
  /-- The run state with its fault cause. -/
  status : RunState
  deriving DecidableEq, Repr

/-- The observation port (rule R166): readable after the run has ended, without changing anything.
Program memory is not part of the report. -/
def State.observe (s : State) : Option Report :=
  if s.halted then
    some { regs := s.regs, pc := s.pc, lr := s.lr, sp := s.sp, flags := s.flags, data := s.dataMem,
           stack := s.stack, status := s.runState }
  else none

end Sys2Proof.Machine
end

