-- ==== Sys2Proof/Machine/Step.lean ====
section
/-! DEFINITION. One step of the Execution Engine (60_exceptions.md rule R140), and the placing of an instruction where the
step fetches. -/

namespace Sys2Proof.Machine

/-- One step: the sentinel test, fetch, decode, execute with the pc commit (rule R140).
A halted state has no instruction to execute and stays as it is (rule R141, D23, notes/assumptions/12.md). -/
def step (s : State) : Host.Outcome State Fault Refusal :=
  match s.runState with
  | .running => if s.atSentinel then .next s.haltNormal else exec (decode s.fetch) s
  | .haltedNormal => .next s
  | .haltedFault _ => .next s

/-- The state with the instruction word `w` loaded at `pc`, so that the very next step runs it.
The fetch needs three things: the word in the slot `pc` names (the load port, rule R163), the run state Running, and `pc`
below the sentinel, for which PC_END takes the value of rule R7 that is above every pc, 0x10000. -/
def State.withFetchWord (s : State) (nbits w : Nat) : State :=
  { s.load s.pc (BitVec.ofNat 16 (w % 2 ^ nbits)) with
    runState := .running
    params := { s.params with pcEnd := 0x10000 } }

end Sys2Proof.Machine
end

