-- ==== Sys2Proof/Safety.lean ====
section
/-! DEFINITION. What a run is, the invariant of a run, and the relations frames are written in. -/

namespace Sys2Proof.Machine

/-- `k` steps (rule R155): running out of `k` is not a halt. -/
def runFor (k : Nat) (s : State) : Outcome := Sys2Proof.core.run k s

/-- The stack holds `k` words: `sp = STACK_BASE - 2k`, without wrapping (rules R16, R37). -/
abbrev State.hasDepth (s : State) (k : Nat) : Prop := s.sp.toNat + 2 * k = s.params.stackBase.toNat

/-- `sp` is one of the nine values of rule R16. -/
abbrev State.spInWindow (s : State) : Prop := ∃ k : Fin 9, s.hasDepth k.val

/-- What holds at every step boundary of a run. -/
structure State.Inv (s : State) : Prop where
  /-- The parameters meet rule R7. -/
  params_valid : s.params.valid
  /-- Rule R16. -/
  sp_in_window : s.spInWindow
  /-- Program memory is in canonical form. -/
  prog_wf : s.progMem.wf = true
  /-- Data memory is in canonical form. -/
  data_wf : s.dataMem.wf = true
  /-- The Link Register holds its reset value (rule R14). -/
  lr_zero : s.lr = 0#16
  /-- Z and S are never both set (rules R73, R82). -/
  flags_exclusive : ¬ (s.flags.z = true ∧ s.flags.s = true)

/-- A step or a run answers a next state: it neither faults nor is refused. -/
abbrev Completes (o : Outcome) : Prop := ∃ t, o = .next t

/-! ### Frames -/

/-- Every general register but `rd` reads as before. -/
abbrev SameRegsBut (rd : Reg) (s t : State) : Prop := ∀ r, r ≠ rd → t.reg r = s.reg r

/-- Every general register reads as before. -/
abbrev SameRegs (s t : State) : Prop := ∀ r, t.reg r = s.reg r

/-- Every data memory slot reads as before. -/
abbrev SameData (s t : State) : Prop := ∀ a, t.dataRead a = s.dataRead a

/-- Every data memory slot but the one at `a` reads as before. -/
abbrev SameDataBut (a : Word) (s t : State) : Prop := ∀ b, b ≠ a → t.dataRead b = s.dataRead b

/-- Every program memory slot reads as before. -/
abbrev SameProgram (s t : State) : Prop := ∀ a, t.progRead a = s.progRead a

/-- Every stack slot reads as before. -/
abbrev SameStack (s t : State) : Prop := ∀ k, t.stackRead k = s.stackRead k

/-- Every stack slot but slot `k` reads as before. -/
abbrev SameStackBut (k : Fin 8) (s t : State) : Prop := ∀ j, j ≠ k → t.stackRead j = s.stackRead j

/-- What no instruction writes at all is as before: `lr`, program memory and the parameters. -/
abbrev SameFixed (s t : State) : Prop := t.lr = s.lr ∧ SameProgram s t ∧ t.params = s.params

/-- The default next pc (rule R13). -/
abbrev PcAdvanced (s t : State) : Prop := t.pc.toNat = (s.pc.toNat + 2) % 0x10000

/-- `pc + off`, reduced mod 2^16, is the next pc (rule R80). -/
abbrev PcJumped (off : Int) (s t : State) : Prop := (t.pc.toNat : Int) = ((s.pc.toNat : Int) + off) % 0x10000

/-! ### Sequences of instructions -/

/-- Executes the instruction `n` times, one after the other, stopping at a fault or a refusal. -/
def execTimes : Nat → Instr → State → Outcome
  | 0, _, s => .next s
  | n + 1, i, s =>
    match exec i s with
    | .next t => execTimes n i t
    | .fault f => .fault f
    | .refused r => .refused r

/-- Executes PSH of each listed register in order, stopping with none if one does not complete. -/
def pushRegs : List Reg → State → Option State
  | [], s => some s
  | r :: rs, s =>
    match exec (.psh r) s with
    | .next t => if t.halted then none else pushRegs rs t
    | .fault _ => none
    | .refused _ => none

/-- Executes POP into `rd` `n` times, collecting what each put into `rd`, stopping with none if one does not complete. -/
def popValues (rd : Reg) : Nat → State → Option (List Word × State)
  | 0, s => some ([], s)
  | n + 1, s =>
    match exec (.pop rd) s with
    | .next t =>
      if t.halted then none
      else
        match popValues rd n t with
        | some (vs, u) => some (t.reg rd :: vs, u)
        | none => none
    | .fault _ => none
    | .refused _ => none

/-! ### Changing the open parameter STACK_BASE -/

/-- The same machine with another STACK_BASE: `sp` keeps its distance from the base. -/
def State.rebase (s : State) (base : Word) : State :=
  { s with sp := s.sp - s.params.stackBase + base, params := { s.params with stackBase := base } }

end Sys2Proof.Machine
end

