-- ==== Sys2Proof/Certificates/Slice0/Obligations.lean ====
section
/-! DEFINITION. The statements for the provers. Each docstring names the rule or section of spec/ it formalises, and, where
it rests on a point the spec marks as its own decision (D<n> of 92_eei_decisions.md), that decision. -/

open Sys2Proof Sys2Proof.Machine

/-! ### Encoding and decoding -/

/-- The image words the source itself gives decode to what it says they are: `MOV R0,#5`, `MOV R1,#3`, `ADD R2,R0,R1`,
`HALT`, and the unassigned `3800` (95_test_vectors.md Part 1, S1, S4, S5). -/
def Obligations.SourceWordsDecode : Prop :=
  decode 0x1805 = .movi 0 5 ∧ decode 0x1903 = .movi 1 3 ∧ decode 0x4204 = .add 2 0 1 ∧
  decode 0xF800 = .halt ∧ decode 0x3800 = .unrecognized7

/-- One word of every format, written out in the spec's table of decoding vectors (95_test_vectors.md section 3.1; rests on
the spec's decisions D1 opcode numbers, D2 selector values, D3 operand fields, D4 STRI, D5 ignored bits, D6 zero extension;
log entries 5, 6, 7). -/
def Obligations.WordsOfEveryFormatDecode : Prop :=
  decode 0x001D = .psh 7 ∧ decode 0x0702 = .pop 7 ∧ decode 0x0007 = .cmp 0 1 ∧ decode 0x0FF8 = .jmp (-2) ∧
  decode 0x0BFE = .jlt 255 ∧ decode 0x0C03 = .jgt (-256) ∧ decode 0x13A0 = .mov 3 5 ∧ decode 0x1FFF = .movi 7 0xFF ∧
  decode 0x2004 = .str 0 1 ∧ decode 0x2F47 = .stri 2 0xE7 ∧ decode 0x3300 = .ldr 3 0 ∧ decode 0xA738 = .xor 7 1 6 ∧
  decode 0xC530 = .shl 5 1 16 ∧ decode 0xE320 = .rol 3 1 ∧ decode 0xFFFF = .halt ∧ decode 0xF7FF = .unrecognized30 ∧
  decode 0x07FC = .nop

/-- Decoding the canonical encoding of a well-formed instruction gives it back, every operand at every value its field admits
(30_encoding.md sections 1 to 6; rests on the spec's decisions D1 opcode numbers, D2 selector values, D3 operand fields, D4
STRI, D6 zero extension; log entries 5, 7). -/
def Obligations.DecodeOfEncode : Prop :=
  ∀ i : Instr, i.wellFormed = true → decode (encode i) = i

/-- Encoding what a word decodes to gives the word with its ignored bits cleared: every bit the formats of rule R54 name is
read, at its place (30_encoding.md sections 2 and 5; rests on the spec's decisions D1 opcode numbers, D2 selector values, D3
operand fields, D4 STRI, D5 ignored bits; log entries 5, 6). -/
def Obligations.EncodeOfDecodeClearsIgnoredBits : Prop :=
  ∀ w : Word, encode (decode w) = w &&& (decode w).usedBits

/-- Two words that agree on the bits the first one's instruction uses decode alike (30_encoding.md section 5, ignored bits;
rests on the spec's decisions D1 opcode numbers, D2 selector values, D3 operand fields, D4 STRI, D5 ignored bits; log entries
5, 6). -/
def Obligations.DecodeReadsOnlyUsedBits : Prop :=
  ∀ w v : Word, v &&& (decode w).usedBits = w &&& (decode w).usedBits → decode v = decode w

/-- The decoder is total into instructions that have an encoding: offsets in -256..255, immediates in 0..255, shift amounts
in 0..31 (30_encoding.md sections 2 and 3; rests on the spec's decisions D4 STRI, D6 zero extension; log entries 5, 7). -/
def Obligations.DecodedInstructionsAreWellFormed : Prop :=
  ∀ w : Word, (decode w).wellFormed = true

/-- Every word matches the opcode-table row of the instruction it decodes to, and no other row (spec/opcode_table.json,
30_encoding.md section 4; rests on the spec's decisions D1 opcode numbers, D2 selector values, D5 ignored bits; log entries
5, 6). -/
def Obligations.EveryWordMatchesOneTableRow : Prop :=
  ∀ w : Word, w &&& (decode w).tableMask = (decode w).tableMatch ∧
    ∀ i : Instr, w &&& i.tableMask = i.tableMatch → i.tableMatch = (decode w).tableMatch

/-- A word decodes to an Unrecognized variant exactly when its opcode is one of the thirteen unassigned values, and the
variant carries that opcode (30_encoding.md section 5; rests on the spec's decisions D1 opcode numbers, D5 ignored bits; log
entries 5, 6; membership of 7 is the source's). -/
def Obligations.UnassignedOpcodesDecodeToUnrecognized : Prop :=
  ∀ w : Word, (decode w).unrecognizedOpcode? =
    if w.toNat / 2048 ∈ [7, 9, 11, 13, 15, 17, 19, 21, 23, 25, 27, 29, 30] then some (w.toNat / 2048) else none

/-! ### The step, halting and faults -/

/-- In a Running state below the sentinel the step executes the instruction decoded from the slot `pc` names, with nothing
added around it; at or beyond the sentinel, and in a halted state, program memory is not read at all (20_memory.md section 3,
60_exceptions.md sections 1 and 5; rests on the spec's decisions D9 range of PC_END, D14 odd `pc`, D23 steps of a halted
state; log entries 1, 12, 13; that a step of a halted state answers a next state is the model's choice among those D23
allows). -/
def Obligations.StepRunsFetchedInstruction : Prop :=
  (∀ s : State, s.runState = .running → s.pc.toNat < s.params.pcEnd →
    step s = exec (decode (s.progRead s.pc)) s) ∧
  (∀ (s : State) (m : Memory), s.runState ≠ .running ∨ s.params.pcEnd ≤ s.pc.toNat →
    ∃ t, step s = .next t ∧ step { s with progMem := m } = .next { t with progMem := m })

/-- At the sentinel a step halts normally with exit status 0 and changes nothing else; with PC_END = 0x10000 the test is
never true and `pc` wraps from 0xFFFE to 0x0000 on blank memory; with PC_END = 0 nothing is executed; blank memory runs as
NOPs up to the first `pc` at or above PC_END (60_exceptions.md section 5; rests on the spec's decisions D2 selector values,
D8 wrap of `pc`, D9 range of PC_END, D12 flags kept, D14 odd `pc`; log entries 1, 5, 9, 10, 13). -/
def Obligations.SentinelHaltsWithoutFetch : Prop :=
  (∀ s : State, s.runState = .running → s.params.pcEnd ≤ s.pc.toNat →
    step s = .next { s with runState := .haltedNormal } ∧
    State.exitStatusIsZero? { s with runState := .haltedNormal } = some true) ∧
  (∀ s : State, s.runState = .running → s.params.pcEnd = 0x10000 → step s = exec (decode (s.progRead s.pc)) s) ∧
  (∀ s : State, s.runState = .running → s.params.pcEnd = 0x10000 → s.pc = 0xFFFE → s.progRead s.pc = 0 →
    step s = .next { s with pc := 0 }) ∧
  (∀ s : State, s.runState = .running → s.params.pcEnd = 0 → step s = .next { s with runState := .haltedNormal }) ∧
  (∀ (s : State) (k : Nat), s.runState = .running →
    (∀ j, j < k → s.pc.toNat + 2 * j < s.params.pcEnd ∧ s.progRead (BitVec.ofNat 16 (s.pc.toNat + 2 * j)) = 0) →
    s.params.pcEnd ≤ s.pc.toNat + 2 * k → s.pc.toNat + 2 * k ≤ 0xFFFF →
    runFor (k + 1) s = .next { s with pc := BitVec.ofNat 16 (s.pc.toNat + 2 * k), runState := .haltedNormal })

/-- A halted state is terminal: after any number of steps it is the same state, and the host sees exit status 0 after
Halted-Normal and nonzero after Halted-Fault (60_exceptions.md sections 1 and 5; rests on the spec's decision D23 steps of a
halted state; log entry 12; that a step is the identity is the model's choice among those D23 allows). -/
def Obligations.HaltedStatesAreTerminal : Prop :=
  ∀ (s : State) (k : Nat), s.runState ≠ .running →
    runFor k s = .next s ∧ s.exitStatusIsZero? = some (decide (s.runState = .haltedNormal))

/-- The transitions of the run state: from Running, a step that completes ends Halted-Normal exactly at the sentinel or by
HALT, Halted-Fault(UnrecognizedOpcode) exactly on an Unrecognized variant, Halted-Fault(StackFault) exactly on PSH with a
full or POP with an empty stack, and otherwise stays Running (60_exceptions.md section 1, the table of transitions; rests on
the spec's decisions D9 range of PC_END, D14 odd `pc`; log entries 1, 13). -/
def Obligations.RunStateTransitions : Prop :=
  ∀ s t : State, s.runState = .running → step s = .next t →
    (t.runState = .haltedNormal ↔ s.params.pcEnd ≤ s.pc.toNat ∨ decode s.fetch = .halt) ∧
    (t.runState = .haltedFault .unrecognizedOpcode ↔
      s.pc.toNat < s.params.pcEnd ∧ (decode s.fetch).unrecognizedOpcode? ≠ none) ∧
    (t.runState = .haltedFault .stackFault ↔
      s.pc.toNat < s.params.pcEnd ∧
        ((∃ rt, decode s.fetch = .psh rt) ∧ s.sp = s.params.stackBase - 16 ∨
         (∃ rd, decode s.fetch = .pop rd) ∧ s.sp = s.params.stackBase))

/-- Faults are precise: a step that enters Halted-Fault changes the run state and nothing else, `pc` included, so the state
is that after the previous instruction (60_exceptions.md section 2; the diagnostic is not state, U7). -/
def Obligations.FaultsArePrecise : Prop :=
  ∀ (s t : State) (c : FaultCause), s.runState = .running → step s = .next t → t.runState = .haltedFault c →
    t = { s with runState := .haltedFault c }

/-- Executing an Unrecognized variant (any of the thirteen) raises UnrecognizedOpcode: it completes, and no state but the run
state changes; in particular the source's word 0x3800 does, and the host then sees a nonzero exit status (60_exceptions.md
section 2 UnrecognizedOpcode; rests on the spec's decisions D1 opcode numbers, D9 range of PC_END, D14 odd `pc`; log entries
1, 5, 13; the diagnostic is not state, U7). -/
def Obligations.UnrecognizedRaisesUnrecognizedOpcode : Prop :=
  (∀ (i : Instr) (op : Nat) (s : State), i.unrecognizedOpcode? = some op →
    exec i s = .next { s with runState := .haltedFault .unrecognizedOpcode }) ∧
  (∀ s : State, s.runState = .running → s.pc.toNat < s.params.pcEnd → s.progRead s.pc = 0x3800 →
    step s = .next { s with runState := .haltedFault .unrecognizedOpcode } ∧
    State.exitStatusIsZero? { s with runState := .haltedFault .unrecognizedOpcode } = some false)

/-- PSH with a full stack and POP with an empty one raise StackFault, which changes the run state alone, ends the run, and is
raised by nothing else; the ninth consecutive PSH of one register on an empty stack is such a fault, and the state is the one
after the eighth (60_exceptions.md section 2 StackFault, 20_memory.md section 5; rests on the spec's decisions D10 bound on
STACK_BASE, D23 steps of a halted state; log entries 1, 12; that the run has ended is said as steps that are the identity,
the model's choice among those D23 allows). -/
def Obligations.StackFaultOnFullOrEmptyStack : Prop :=
  (∀ (s : State) (rt : Reg), s.sp = s.params.stackBase - 16 →
    exec (.psh rt) s = .next { s with runState := .haltedFault .stackFault }) ∧
  (∀ (s : State) (rd : Reg), s.sp = s.params.stackBase →
    exec (.pop rd) s = .next { s with runState := .haltedFault .stackFault }) ∧
  (∀ (i : Instr) (s t : State), s.runState = .running → exec i s = .next t → t.runState = .haltedFault .stackFault →
    (∃ rt, i = .psh rt ∧ s.sp = s.params.stackBase - 16) ∨ (∃ rd, i = .pop rd ∧ s.sp = s.params.stackBase)) ∧
  (∀ (s : State) (k : Nat), s.runState = .haltedFault .stackFault → runFor k s = .next s) ∧
  (∀ (s : State) (rt : Reg), s.runState = .running → s.params.valid → s.hasDepth 0 →
    ∃ t, pushRegs (List.replicate 8 rt) s = some t ∧ SameRegs s t ∧
      exec (.psh rt) t = .next { t with runState := .haltedFault .stackFault } ∧
      State.exitStatusIsZero? { t with runState := .haltedFault .stackFault } = some false)

/-! ### Results: every instruction completes, and what its next state holds -/

/-- NOP only advances `pc`, and every word of the pattern 00000xxxxxxxxx00 is a NOP (40_stack_compare.md NOP; rests on the
spec's decisions D2 selector values, D5 ignored bits, D8 wrap of `pc`, D12 flags kept; log entries 5, 6, 9, 10). -/
def Obligations.NopOnlyAdvancesPc : Prop :=
  (∀ x : Fin 512, decode (BitVec.ofNat 16 (4 * x.val)) = .nop) ∧
  (∀ s : State, ∃ t, exec .nop s = .next t ∧ PcAdvanced s t ∧ t = { s with pc := t.pc })

/-- PSH with `k` words on the stack, `k` in 0..7, completes: the register's value goes to slot `k`, `sp` goes down by 2, `pc`
advances, and nothing else changes (40_stack_compare.md PSH, 20_memory.md section 5; rests on the spec's decisions D3 operand
fields, D8 wrap of `pc`, D10 bound on STACK_BASE, D11 slot numbers, D12 flags kept; log entries 1, 5, 9, 10, 11). -/
def Obligations.PshStoresInNextSlot : Prop :=
  ∀ (s : State) (rt : Reg) (k : Fin 8), s.params.valid → s.hasDepth k.val →
    ∃ t, exec (.psh rt) s = .next t ∧ t.stackRead k = s.reg rt ∧ SameStackBut k s t ∧ t.hasDepth (k.val + 1) ∧
      PcAdvanced s t ∧ SameRegs s t ∧ t.flags = s.flags ∧ t.runState = s.runState ∧ SameData s t ∧ SameFixed s t

/-- POP with `k + 1` words on the stack, `k` in 0..7, completes: the register gets slot `k`'s word, which stays in the slot,
`sp` goes up by 2, `pc` advances, and nothing else changes (40_stack_compare.md POP, 20_memory.md section 5; rests on the
spec's decisions D3 operand fields, D8 wrap of `pc`, D10 bound on STACK_BASE, D11 slot numbers, D12 flags kept; log entries
1, 5, 9, 10, 11). -/
def Obligations.PopLoadsFromTopSlot : Prop :=
  ∀ (s : State) (rd : Reg) (k : Fin 8), s.params.valid → s.hasDepth (k.val + 1) →
    ∃ t, exec (.pop rd) s = .next t ∧ t.reg rd = s.stackRead k ∧ SameRegsBut rd s t ∧ t.hasDepth k.val ∧
      SameStack s t ∧ PcAdvanced s t ∧ t.flags = s.flags ∧ t.runState = s.runState ∧ SameData s t ∧ SameFixed s t

/-- CMP sets Z to equality and S to unsigned less-than, keeps C and Ov, writes no register, and leaves exactly one of equal,
less, greater; every word of the pattern 00000xxxsssttt11 is a CMP (40_stack_compare.md CMP; rests on the spec's decisions D2
selector values, D5 ignored bits, D8 wrap of `pc`; log entries 5, 6, 9). -/
def Obligations.CmpSetsZeroAndSign : Prop :=
  (∀ (x : Fin 8) (rs rt : Reg), decode (BitVec.ofNat 16 (256 * x.val + 32 * rs.val + 4 * rt.val + 3)) = .cmp rs rt) ∧
  (∀ (s : State) (rs rt : Reg), ∃ t, exec (.cmp rs rt) s = .next t ∧
    (t.flags.z = true ↔ (s.reg rs).toNat = (s.reg rt).toNat) ∧
    (t.flags.s = true ↔ (s.reg rs).toNat < (s.reg rt).toNat) ∧
    t.flags.c = s.flags.c ∧ t.flags.ov = s.flags.ov ∧ ¬ (t.flags.z = true ∧ t.flags.s = true) ∧
    PcAdvanced s t ∧ t = { s with pc := t.pc, flags := t.flags })

/-- JMP, JEQ, JLT and JGT complete, change `pc` alone, and jump to `(pc + off) mod 2^16` exactly when their condition on Z
and S holds: always, Z and not S, not Z and S, neither (41_jumps.md; rests on the spec's decisions D7 base of a jump, D8 wrap
of `pc`, D12 flags kept; log entries 9, 10). -/
def Obligations.JumpsBranchOnTheirCondition : Prop :=
  ∀ (s : State) (off : Int),
    (∃ t, exec (.jmp off) s = .next t ∧ t = { s with pc := t.pc } ∧ PcJumped off s t) ∧
    (∃ t, exec (.jeq off) s = .next t ∧ t = { s with pc := t.pc } ∧
      if s.flags.z = true ∧ s.flags.s = false then PcJumped off s t else PcAdvanced s t) ∧
    (∃ t, exec (.jlt off) s = .next t ∧ t = { s with pc := t.pc } ∧
      if s.flags.z = false ∧ s.flags.s = true then PcJumped off s t else PcAdvanced s t) ∧
    (∃ t, exec (.jgt off) s = .next t ∧ t = { s with pc := t.pc } ∧
      if s.flags.z = false ∧ s.flags.s = false then PcJumped off s t else PcAdvanced s t)

/-- MOV copies a register and MOVI loads a zero-extended immediate: the destination alone and `pc` change (42_move_memory.md
MOV, MOVI; rests on the spec's decisions D3 operand fields, D6 zero extension, D8 wrap of `pc`, D12 flags kept; log entries
5, 7, 9, 10). -/
def Obligations.MovesWriteDestination : Prop :=
  ∀ s : State,
    (∀ rd rs, ∃ t, exec (.mov rd rs) s = .next t ∧ t.reg rd = s.reg rs ∧ SameRegsBut rd s t ∧ PcAdvanced s t ∧
      t = { s with pc := t.pc, regs := t.regs }) ∧
    (∀ (rd : Reg) (imm : Word), ∃ t, exec (.movi rd imm) s = .next t ∧ t.reg rd = imm ∧ SameRegsBut rd s t ∧
      PcAdvanced s t ∧ t = { s with pc := t.pc, regs := t.regs }) ∧
    (∀ (rd : Reg) (imm : Fin 256),
      decode (BitVec.ofNat 16 (0x1800 + 256 * rd.val + imm.val)) = .movi rd (BitVec.ofNat 16 imm.val))

/-- LDR loads the data slot its address register names, whatever the address and also where the destination is the address
register (42_move_memory.md LDR, 20_memory.md section 2; rests on the spec's decisions D3 operand fields, D8 wrap of `pc`,
D12 flags kept, D21 reads before writes; log entries 5, 9, 10, 18). -/
def Obligations.LdrReadsDataSlot : Prop :=
  ∀ (s : State) (rd rs : Reg), ∃ t, exec (.ldr rd rs) s = .next t ∧ t.reg rd = s.dataRead (s.reg rs) ∧
    SameRegsBut rd s t ∧ PcAdvanced s t ∧ t = { s with pc := t.pc, regs := t.regs }

/-- STR and STRI store to the data slot their address register names and change nothing else but `pc`: for the address the
model's own effective-address function gives, that slot holds the value and every other slot reads as before
(42_move_memory.md STR, STRI; rests on the spec's decisions D3 operand fields, D4 STRI, D8 wrap of `pc`, D12 flags kept; log
entries 5, 9, 10). -/
def Obligations.StoresWriteOneDataSlot : Prop :=
  ∀ (s : State) (rs : Reg) (a : Word), s.effectiveAddress rs = a →
    a = s.reg rs ∧
    (∀ rt, ∃ t, exec (.str rs rt) s = .next t ∧ t.dataRead a = s.reg rt ∧ SameDataBut a s t ∧ PcAdvanced s t ∧
      t = { s with pc := t.pc, dataMem := t.dataMem }) ∧
    (∀ imm, ∃ t, exec (.stri rs imm) s = .next t ∧ t.dataRead a = imm ∧ SameDataBut a s t ∧ PcAdvanced s t ∧
      t = { s with pc := t.pc, dataMem := t.dataMem })

/-- Every 16-bit address, odd or even, is accessed whole and without a trap, and an access at `a` never touches another slot,
`a - 1` and `a + 1` among them (20_memory.md section 2; rests on the spec's decisions D3 operand fields, D4 STRI, D21 reads
before writes; log entries 5, 18; the address `x[rs]` and STR's value `x[rt]` are D3, that STRI stores its immediate at
`x[rs]` is D4). -/
def Obligations.DataAccessesNeedNoAlignment : Prop :=
  ∀ (s : State) (a v : Word) (rd rs rt : Reg), s.reg rs = a →
    (∃ t, exec (.str rs rt) s = .next t ∧ t.dataRead a = s.reg rt ∧
      t.dataRead (a - 1) = s.dataRead (a - 1) ∧ t.dataRead (a + 1) = s.dataRead (a + 1) ∧ SameDataBut a s t) ∧
    (∃ t, exec (.stri rs v) s = .next t ∧ t.dataRead a = v ∧
      t.dataRead (a - 1) = s.dataRead (a - 1) ∧ t.dataRead (a + 1) = s.dataRead (a + 1) ∧ SameDataBut a s t) ∧
    (∃ t, exec (.ldr rd rs) s = .next t ∧ t.reg rd = s.dataRead a ∧ SameData s t)

/-- ADD of every word of the pattern 01000dddssstttxx writes the sum mod 2^16 and all four flags: C for a sum above 0xFFFF,
Ov for like-signed operands and an unlike result, Z for a zero result, S for its bit 15 (43_alu.md section 2 ADD; rests on
the spec's decisions D5 ignored bits, D8 wrap of `pc`, D21 reads before writes; log entries 6, 9, 18; opcode, fields and flag
laws are the source's). -/
def Obligations.AddResultAndFlags : Prop :=
  (∀ (rd rs rt : Reg) (x : Fin 4),
    decode (BitVec.ofNat 16 (0x4000 + 256 * rd.val + 32 * rs.val + 4 * rt.val + x.val)) = .add rd rs rt ∧
    encode (.add rd rs rt) = BitVec.ofNat 16 (0x4000 + 256 * rd.val + 32 * rs.val + 4 * rt.val)) ∧
  (∀ (s : State) (rd rs rt : Reg), ∃ t, exec (.add rd rs rt) s = .next t ∧
    (t.reg rd).toNat = ((s.reg rs).toNat + (s.reg rt).toNat) % 0x10000 ∧
    (t.flags.c = true ↔ (s.reg rs).toNat + (s.reg rt).toNat > 0xFFFF) ∧
    (t.flags.ov = true ↔ (s.reg rs).getLsbD 15 = (s.reg rt).getLsbD 15 ∧ (t.reg rd).getLsbD 15 ≠ (s.reg rs).getLsbD 15) ∧
    (t.flags.z = true ↔ (t.reg rd).toNat = 0) ∧ t.flags.s = (t.reg rd).getLsbD 15 ∧
    SameRegsBut rd s t ∧ PcAdvanced s t ∧ t = { s with pc := t.pc, regs := t.regs, flags := t.flags })

/-- SUB writes the difference mod 2^16 and all four flags: C is the borrow, Ov unlike-signed operands with a result unlike
the minuend (43_alu.md section 2 SUB; rests on the spec's decisions D1 opcode numbers, D3 operand fields, D8 wrap of `pc`,
D21 reads before writes; log entries 5, 9, 18). -/
def Obligations.SubResultAndFlags : Prop :=
  ∀ (s : State) (rd rs rt : Reg), ∃ t, exec (.sub rd rs rt) s = .next t ∧
    ((t.reg rd).toNat : Int) = ((s.reg rs).toNat - (s.reg rt).toNat : Int) % 0x10000 ∧
    (t.flags.c = true ↔ (s.reg rs).toNat < (s.reg rt).toNat) ∧
    (t.flags.ov = true ↔ (s.reg rs).getLsbD 15 ≠ (s.reg rt).getLsbD 15 ∧ (t.reg rd).getLsbD 15 ≠ (s.reg rs).getLsbD 15) ∧
    (t.flags.z = true ↔ (t.reg rd).toNat = 0) ∧ t.flags.s = (t.reg rd).getLsbD 15 ∧
    SameRegsBut rd s t ∧ PcAdvanced s t ∧ t = { s with pc := t.pc, regs := t.regs, flags := t.flags }

/-- MUL writes the low 16 bits of the unsigned product and all four flags: C for a product above 0xFFFF, Ov by the formula on
the operands' and the truncated result's signs (43_alu.md section 2 MUL; rests on the spec's decisions D1 opcode numbers, D3
operand fields, D8 wrap of `pc`, D17 Ov of MUL, D21 reads before writes; log entries 5, 8, 9, 18; the formula as the
definition of Ov is D17). -/
def Obligations.MulResultAndFlags : Prop :=
  ∀ (s : State) (rd rs rt : Reg), ∃ t, exec (.mul rd rs rt) s = .next t ∧
    (t.reg rd).toNat = ((s.reg rs).toNat * (s.reg rt).toNat) % 0x10000 ∧
    (t.flags.c = true ↔ (s.reg rs).toNat * (s.reg rt).toNat > 0xFFFF) ∧
    (t.flags.ov = true ↔ (s.reg rs).getLsbD 15 = (s.reg rt).getLsbD 15 ∧ (t.reg rd).getLsbD 15 ≠ (s.reg rs).getLsbD 15) ∧
    (t.flags.z = true ↔ (t.reg rd).toNat = 0) ∧ t.flags.s = (t.reg rd).getLsbD 15 ∧
    SameRegsBut rd s t ∧ PcAdvanced s t ∧ t = { s with pc := t.pc, regs := t.regs, flags := t.flags }

/-- AND, OR, XOR and NOT work bit by bit, clear C and Ov, and set Z and S from the result (43_alu.md section 3; rests on the
spec's decisions D1 opcode numbers, D3 operand fields, D8 wrap of `pc`, D21 reads before writes; log entries 5, 9, 18). -/
def Obligations.LogicResultsAndFlags : Prop :=
  ∀ (s : State) (rd rs rt : Reg),
    ∀ c ∈ [(Instr.and rd rs rt, fun a b : Bool => a && b), (Instr.or rd rs rt, fun a b => a || b),
           (Instr.xor rd rs rt, fun a b => xor a b), (Instr.not rd rs, fun a _ => !a)],
      ∃ t, exec c.1 s = .next t ∧
        (∀ n, n < 16 → (t.reg rd).getLsbD n = c.2 ((s.reg rs).getLsbD n) ((s.reg rt).getLsbD n)) ∧
        t.flags.c = false ∧ t.flags.ov = false ∧ (t.flags.z = true ↔ ∀ n, n < 16 → (t.reg rd).getLsbD n = false) ∧
        t.flags.s = (t.reg rd).getLsbD 15 ∧ SameRegsBut rd s t ∧ PcAdvanced s t ∧
        t = { s with pc := t.pc, regs := t.regs, flags := t.flags }

/-- Rule R100: for each of the seven ALU instructions Z tells a zero result and S its bit 15, the result and the four flags
are a function of the operation and the two operand values, and the old flags are not read. -/
def Obligations.AluIsPureFunctionOfOperands : Prop :=
  ∀ (rd rs rt : Reg), ∀ i ∈ [Instr.add rd rs rt, .sub rd rs rt, .mul rd rs rt, .and rd rs rt, .or rd rs rt, .not rd rs,
      .xor rd rs rt],
    ∀ s : State, ∃ t, exec i s = .next t ∧
      (t.flags.z = true ↔ t.reg rd = 0) ∧ t.flags.s = (t.reg rd).getLsbD 15 ∧
      (∀ s' : State, s'.reg rs = s.reg rs → s'.reg rt = s.reg rt →
        ∃ t', exec i s' = .next t' ∧ t'.reg rd = t.reg rd ∧ t'.flags = t.flags) ∧
      (∀ f : Flags, exec i (s.setFlags f) = .next t)

/-- SHR and SHL are logical shifts by 0 to 31, giving 0 from 16 on, bit by bit, and write no flag (44_shift_rotate.md SHR,
SHL; rests on the spec's decisions D1 opcode numbers, D3 operand fields, D8 wrap of `pc`, D16 kind of shift and rotate, D21
reads before writes; log entries 5, 9, 17, 18). -/
def Obligations.ShiftsAreLogical : Prop :=
  ∀ (s : State) (rd rs : Reg) (n : Nat),
    (∃ t, exec (.shr rd rs n) s = .next t ∧ (∀ j, j < 16 → (t.reg rd).getLsbD j = (s.reg rs).getLsbD (j + n)) ∧
      (16 ≤ n → t.reg rd = 0) ∧ SameRegsBut rd s t ∧ PcAdvanced s t ∧ t = { s with pc := t.pc, regs := t.regs }) ∧
    (∃ t, exec (.shl rd rs n) s = .next t ∧
      (∀ j, j < 16 → (t.reg rd).getLsbD j = (decide (n ≤ j) && (s.reg rs).getLsbD (j - n))) ∧
      (16 ≤ n → t.reg rd = 0) ∧ SameRegsBut rd s t ∧ PcAdvanced s t ∧ t = { s with pc := t.pc, regs := t.regs })

/-- ROR and ROL move every bit by one place around the 16 bits of the register and write no flag (44_shift_rotate.md ROR,
ROL; rests on the spec's decisions D1 opcode numbers, D3 operand fields, D8 wrap of `pc`, D16 kind of shift and rotate, D21
reads before writes; log entries 5, 9, 17, 18). -/
def Obligations.RotatesMoveBitsByOne : Prop :=
  ∀ (s : State) (rd rs : Reg),
    (∃ t, exec (.ror rd rs) s = .next t ∧ (∀ j, j < 16 → (t.reg rd).getLsbD j = (s.reg rs).getLsbD ((j + 1) % 16)) ∧
      SameRegsBut rd s t ∧ PcAdvanced s t ∧ t = { s with pc := t.pc, regs := t.regs }) ∧
    (∃ t, exec (.rol rd rs) s = .next t ∧ (∀ j, j < 16 → (t.reg rd).getLsbD ((j + 1) % 16) = (s.reg rs).getLsbD j) ∧
      SameRegsBut rd s t ∧ PcAdvanced s t ∧ t = { s with pc := t.pc, regs := t.regs })

/-- Every word 0xF800 to 0xFFFF is HALT, which commits `pc + 2`, ends the run normally with exit status 0 and changes nothing
else, and after which nothing executes (45_halt.md HALT; rests on the spec's decisions D5 ignored bits, D8 wrap of `pc`, D12
flags kept, D23 steps of a halted state; log entries 6, 9, 10, 12; that nothing executes is said as steps that are the
identity, the model's choice among those D23 allows). -/
def Obligations.HaltCommitsPcAndEndsRun : Prop :=
  (∀ x : Fin 2048, decode (BitVec.ofNat 16 (0xF800 + x.val)) = .halt) ∧ encode .halt = 0xF800 ∧
  (∀ s : State, ∃ t, exec .halt s = .next t ∧ PcAdvanced s t ∧ t = { s with pc := t.pc, runState := .haltedNormal } ∧
    t.exitStatusIsZero? = some true ∧ ∀ k, runFor k t = .next t)

/-! ### Frames over the whole instruction set -/

/-- Only the instructions with a destination register write a general register, and only that one: for every instruction, a
register that is not its destination reads as before (10_state.md section 1, the list under rule R11; rests on the spec's
decision D3 operand fields; log entry 5). -/
def Obligations.OnlyDestinationRegisterChanges : Prop :=
  ∀ (i : Instr) (s t : State) (r : Reg), exec i s = .next t → i.destReg? ≠ some r → t.reg r = s.reg r

/-- The table of flag writers: the arithmetic and logic instructions may write all four, CMP writes Z and S and keeps C and
Ov, and every other instruction keeps all four (10_state.md section 4; rests on the spec's decision D12 flags kept; log entry
10). -/
def Obligations.FlagWritersTable : Prop :=
  ∀ (i : Instr) (s t : State), exec i s = .next t →
    (∃ rd rs rt, i ∈ [Instr.add rd rs rt, .sub rd rs rt, .mul rd rs rt, .and rd rs rt, .or rd rs rt, .not rd rs,
        .xor rd rs rt]) ∨
    (∃ rs rt, i = .cmp rs rt ∧ t.flags.c = s.flags.c ∧ t.flags.ov = s.flags.ov) ∨
    t.flags = s.flags

/-- Data memory is read by LDR, which loads the addressed slot, and written by STR and STRI, which write the addressed slot
and read no slot (whatever data memory holds, they do the same write to it), and every other instruction does the same
whatever data memory holds and leaves it as it is; two addresses are two slots, the load port does not write it, and the
host's report lists exactly the addresses whose value is nonzero (10_state.md section 6; rests on the spec's decisions D3
operand fields, D4 STRI, D20 report, D21 reads before writes, D24 load port; log entries 5, 18, 19). -/
def Obligations.DataMemoryReach : Prop :=
  (∀ (s : State) (rd rs : Reg), ∃ t, exec (.ldr rd rs) s = .next t ∧ t.reg rd = s.dataRead (s.effectiveAddress rs) ∧
    t.dataMem = s.dataMem) ∧
  (∀ (s : State) (rs rt : Reg), ∃ t, exec (.str rs rt) s = .next t ∧
    t.dataMem = (s.dataWrite (s.effectiveAddress rs) (s.reg rt)).dataMem ∧
    ∀ m : Memory, exec (.str rs rt) { s with dataMem := m } =
      .next (State.dataWrite { t with dataMem := m } (s.effectiveAddress rs) (s.reg rt))) ∧
  (∀ (s : State) (rs : Reg) (imm : Word), ∃ t, exec (.stri rs imm) s = .next t ∧
    t.dataMem = (s.dataWrite (s.effectiveAddress rs) imm).dataMem ∧
    ∀ m : Memory, exec (.stri rs imm) { s with dataMem := m } =
      .next (State.dataWrite { t with dataMem := m } (s.effectiveAddress rs) imm)) ∧
  (∀ (i : Instr) (s t : State), exec i s = .next t → (∀ rd rs, i ≠ .ldr rd rs) → (∀ rs rt, i ≠ .str rs rt) →
    (∀ rs imm, i ≠ .stri rs imm) →
    t.dataMem = s.dataMem ∧ ∀ m : Memory, exec i { s with dataMem := m } = .next { t with dataMem := m }) ∧
  (∀ (s : State) (a b v : Word), b ≠ a → (s.dataWrite a v).dataRead a = v ∧ (s.dataWrite a v).dataRead b = s.dataRead b) ∧
  (∀ (s : State) (image : List (Word × Word)), (s.loadImage image).dataMem = s.dataMem) ∧
  (∀ (s : State) (r : Report), s.dataMem.wf = true → s.observe = some r →
    ∀ (a v : Word), (a.toNat, v) ∈ r.data ↔ v ≠ 0 ∧ s.dataRead a = v)

/-- Rule R23: the stack slots are changed by PSH alone and read by POP alone (any other instruction does the same whatever
the slots hold, and puts into a slot what it would have put there anyway or nothing), they are not part of data memory (STR
and STRI, like all but PSH, change no slot, and PSH and POP neither change nor read data memory), and the host's report shows
all eight. -/
def Obligations.StackSlotsReach : Prop :=
  (∀ (i : Instr) (s t : State), exec i s = .next t → (∀ rt, i ≠ .psh rt) → SameStack s t) ∧
  (∀ (i : Instr) (s t : State) (v : Vector Word 8), exec i s = .next t → (∀ rd, i ≠ .pop rd) →
    ∃ v' : Vector Word 8, exec i { s with stack := v } = .next { t with stack := v' } ∧
      ∀ k : Fin 8, (v'[k] = v[k] ∧ t.stackRead k = s.stackRead k) ∨ v'[k] = t.stackRead k) ∧
  (∀ (i : Instr) (s t : State), exec i s = .next t → ((∃ rt, i = .psh rt) ∨ ∃ rd, i = .pop rd) → SameData s t) ∧
  (∀ (i : Instr) (s t : State) (m : Memory), exec i s = .next t → ((∃ rt, i = .psh rt) ∨ ∃ rd, i = .pop rd) →
    exec i { s with dataMem := m } = .next { t with dataMem := m }) ∧
  (∀ (s : State) (r : Report), s.observe = some r → ∀ k : Fin 8, r.stack[k] = s.stackRead k)

/-- No instruction reads or writes program memory: it does the same whatever program memory holds and leaves it as it is
(10_state.md section 6, 20_memory.md section 8 instruction-fetch coherence). -/
def Obligations.NoInstructionReachesProgramMemory : Prop :=
  ∀ (i : Instr) (s t : State) (m : Memory), exec i s = .next t →
    t.progMem = s.progMem ∧ exec i { s with progMem := m } = .next { t with progMem := m }

/-- Program memory and the two parameters are constant over any number of steps (20_memory.md section 8, 00_scope.md section
4; rests on the spec's decision D23 steps of a halted state; log entries 1, 12; that the parameters stand in the state is the
model's choice). -/
def Obligations.ProgramMemoryIsConstant : Prop :=
  ∀ (k : Nat) (s t : State), runFor k s = .next t → t.progMem = s.progMem ∧ t.params = s.params

/-- Rule R14: the Link Register is read and written by no instruction, so it holds its reset value 0 for the whole run of any
program, and the host's report shows it. -/
def Obligations.LinkRegisterIsInert : Prop :=
  (∀ (i : Instr) (s t : State) (v : Word), exec i s = .next t →
    t.lr = s.lr ∧ exec i { s with lr := v } = .next { t with lr := v }) ∧
  (∀ (p : Params) (image : List (Word × Word)) (k : Nat) (t : State),
    (State.boot p image).lr = 0 ∧ (runFor k (State.boot p image) = .next t → t.lr = 0)) ∧
  (∀ (s : State) (r : Report), s.observe = some r → r.lr = s.lr)

/-- Rule R15: only PSH, by minus 2, and POP, by plus 2, change `sp`, which stays in the stack window; an instruction does the
same whatever `sp` is, as long as it keeps its distance from the base, so no general register is copied to or from it; the
host's report shows it. -/
def Obligations.StackPointerChangesOnlyByPshAndPop : Prop :=
  (∀ (i : Instr) (s t : State), exec i s = .next t → t.sp ≠ s.sp →
    (∃ rt, i = .psh rt ∧ t.sp = s.sp - 2) ∨ (∃ rd, i = .pop rd ∧ t.sp = s.sp + 2)) ∧
  (∀ (i : Instr) (s t : State), s.params.valid → s.spInWindow → exec i s = .next t → t.spInWindow) ∧
  (∀ (i : Instr) (s t : State) (base : Word), s.params.valid → s.spInWindow → 16 ≤ base.toNat → exec i s = .next t →
    exec i (s.rebase base) = .next (t.rebase base)) ∧
  (∀ (s : State) (r : Report), s.observe = some r → r.sp = s.sp)

/-- No instruction reads C or Ov: whatever they are, it does the same, and either writes both of them, to the same values, or
neither (10_state.md section 4, what reads each flag; rests on the spec's decisions D12 flags kept, D16 kind of shift and
rotate; log entries 10, 17). -/
def Obligations.CarryAndOverflowAreNotRead : Prop :=
  ∀ (i : Instr) (s t : State) (c ov : Bool), exec i s = .next t →
    exec i { s with flags := { s.flags with c := c, ov := ov } } = .next t ∨
    (t.flags.c = s.flags.c ∧ t.flags.ov = s.flags.ov ∧
      exec i { s with flags := { s.flags with c := c, ov := ov } } =
        .next { t with flags := { t.flags with c := c, ov := ov } })

/-- No instruction reads the run state: whatever it is, the instruction does the same, and either sets it, to the same run
state, or leaves it (10_state.md section 5). -/
def Obligations.RunStateIsNotReadable : Prop :=
  ∀ (i : Instr) (s t : State) (r : RunState), exec i s = .next t →
    exec i { s with runState := r } = .next t ∨
    (t.runState = s.runState ∧ exec i { s with runState := r } = .next { t with runState := r })

/-- How each instruction leaves `pc`: a raised fault keeps it, a jump commits its target or the default, and every other
instruction commits `(pc + 2) mod 2^16` (10_state.md section 2; rests on the spec's decisions D7 base of a jump, D8 wrap of
`pc`; log entry 9). -/
def Obligations.PcCommitRule : Prop :=
  ∀ (i : Instr) (s t : State), exec i s = .next t →
    (t = { s with runState := .haltedFault .stackFault } ∨ t = { s with runState := .haltedFault .unrecognizedOpcode }) ∨
    (∃ off, i ∈ [Instr.jmp off, .jeq off, .jlt off, .jgt off] ∧ PcJumped off s t) ∨
    PcAdvanced s t

/-! ### Consequences of the arithmetic, compare and memory rules -/

/-- Ov after ADD and SUB is signed overflow: the exact signed sum or difference falls outside -32768..32767 (43_alu.md
section 1 and section 2 ADD and SUB, rules R101 and R102, with the signed reading of 00_scope.md section 5; rests on the
spec's decision D3 operand fields; log entry 5). -/
def Obligations.AddSubOverflowIsSignedOverflow : Prop :=
  ∀ (s t : State) (rd rs rt : Reg),
    (exec (.add rd rs rt) s = .next t →
      (t.flags.ov = true ↔ ¬ (-32768 ≤ signed (s.reg rs) + signed (s.reg rt) ∧
        signed (s.reg rs) + signed (s.reg rt) ≤ 32767))) ∧
    (exec (.sub rd rs rt) s = .next t →
      (t.flags.ov = true ↔ ¬ (-32768 ≤ signed (s.reg rs) - signed (s.reg rt) ∧
        signed (s.reg rs) - signed (s.reg rt) ≤ 32767)))

/-- After CMP, JEQ branches iff the registers are equal, JLT iff the first is less and JGT iff it is greater, unsigned
(40_stack_compare.md CMP, 41_jumps.md, 95_test_vectors.md S6 property 5; rests on the spec's decisions D7 base of a jump, D8
wrap of `pc`, D12 flags kept; log entries 9, 10). -/
def Obligations.ConditionalJumpsAfterCmp : Prop :=
  ∀ (s t : State) (rs rt : Reg) (off : Int), exec (.cmp rs rt) s = .next t →
    (∃ u, exec (.jeq off) t = .next u ∧ u = { t with pc := u.pc } ∧
      if (s.reg rs).toNat = (s.reg rt).toNat then PcJumped off t u else PcAdvanced t u) ∧
    (∃ u, exec (.jlt off) t = .next u ∧ u = { t with pc := u.pc } ∧
      if (s.reg rs).toNat < (s.reg rt).toNat then PcJumped off t u else PcAdvanced t u) ∧
    (∃ u, exec (.jgt off) t = .next u ∧ u = { t with pc := u.pc } ∧
      if (s.reg rs).toNat > (s.reg rt).toNat then PcJumped off t u else PcAdvanced t u)

/-- In a state of a run exactly one of JEQ, JLT, JGT is taken: one of them jumps whatever its offset, and the other two go on
to the next instruction (95_test_vectors.md section 3.3, 41_jumps.md; rests on the spec's decisions D7 base of a jump, D8
wrap of `pc`; log entry 9; holds because Z and S are never both set). -/
def Obligations.ExactlyOneConditionalJumpTaken : Prop :=
  ∀ s : State, s.Inv → ∃ c ∈ [Instr.jeq, .jlt, .jgt],
    (∀ off, ∃ t, exec (c off) s = .next t ∧ PcJumped off s t) ∧
    ∀ d ∈ [Instr.jeq, .jlt, .jgt], d ≠ c → ∀ off, ∃ t, exec (d off) s = .next t ∧ PcAdvanced s t

/-- ROL of a register undoes ROR of it and ROR undoes ROL, and sixteen RORs executed one after the other, or sixteen ROLs,
complete and leave every general register as it was (44_shift_rotate.md ROR, ROL corner cases; rests on the spec's decisions
D3 operand fields, D16 kind of shift and rotate, D21 reads before writes; log entries 5, 17, 18). -/
def Obligations.RotationsUndoEachOther : Prop :=
  ∀ (s : State) (r : Reg),
    (∃ t u, exec (.ror r r) s = .next t ∧ exec (.rol r r) t = .next u ∧ SameRegs s u) ∧
    (∃ t u, exec (.rol r r) s = .next t ∧ exec (.ror r r) t = .next u ∧ SameRegs s u) ∧
    (∃ t, execTimes 16 (.ror r r) s = .next t ∧ SameRegs s t) ∧
    (∃ t, execTimes 16 (.rol r r) s = .next t ∧ SameRegs s t)

/-- A load sees the store just before it, at the same address and at no other (20_memory.md section 8; rests on the spec's
decisions D3 operand fields, D21 reads before writes; log entries 5, 18). -/
def Obligations.StoreThenLoad : Prop :=
  ∀ (s t : State) (ra rt rb rd : Reg), exec (.str ra rt) s = .next t →
    ∃ u, exec (.ldr rd rb) t = .next u ∧
      u.reg rd = if s.reg rb = s.reg ra then s.reg rt else s.dataRead (s.reg rb)

/-- The LIFO law: PSH of `n` registers on a stack with room for them, then `n` POPs, pop the pushed values in reverse order
and bring `sp` back (20_memory.md section 5, the LIFO law, and 95_test_vectors.md S6 property 2; rests on the spec's
decisions D3 operand fields, D10 bound on STACK_BASE; log entries 1, 5). -/
def Obligations.StackIsLifo : Prop :=
  ∀ (s : State) (regs : List Reg) (rd : Reg) (k : Nat), s.runState = .running → s.params.valid → s.hasDepth k →
    k + regs.length ≤ 8 →
    ∃ t u, pushRegs regs s = some t ∧ t.hasDepth (k + regs.length) ∧
      popValues rd regs.length t = some ((regs.map s.reg).reverse, u) ∧ u.sp = s.sp

/-! ### Reset, loading, invariants -/

/-- The reset state of every parameter choice: registers, flags and all three memories zero, `sp = STACK_BASE`, Running; and
`State.reset` is such a state for legal parameters (10_state.md section 8; rests on the spec's decisions D9 range of PC_END,
D10 bound on STACK_BASE, D13 flags and run state at reset; log entries 1, 2, 3, 10; the parameters of `State.reset` are the
model's, log entries 2 and 3, and no clause states their value). -/
def Obligations.ResetState : Prop :=
  (∀ p : Params, ∃ s, State.resetWith p = s ∧ (∀ r, s.reg r = 0) ∧ s.pc = 0 ∧ s.lr = 0 ∧ s.sp = p.stackBase ∧
    s.flags.c = false ∧ s.flags.ov = false ∧ s.flags.z = false ∧ s.flags.s = false ∧ s.runState = .running ∧
    (∀ a, s.progRead a = 0) ∧ (∀ a, s.dataRead a = 0) ∧ (∀ k, s.stackRead k = 0) ∧ s.params = p) ∧
  (∃ p : Params, p.valid ∧ State.reset = State.resetWith p)

/-- Loading an image writes program memory alone: a slot holds the value of the last directive that names it, and 0 if none
does (70_reset_and_hazards.md section 2, the load port; rests on the spec's decision D24 load port; log entry 19). -/
def Obligations.LoadPortLastDirectiveWins : Prop :=
  ∀ (p : Params) (image : List (Word × Word)) (a : Word),
    (State.boot p image).progRead a = ((image.reverse.find? (fun d => d.1 == a)).map (fun d => d.2)).getD 0 ∧
    State.boot p image = { State.resetWith p with progMem := (State.boot p image).progMem }

/-- The host can read the report exactly when the run has ended, and it shows registers, `pc`, flags and the run state as
they are (70_reset_and_hazards.md section 3, observation; rests on the spec's decision D20 report; log entry 19). -/
def Obligations.ReportAfterTheRun : Prop :=
  ∀ s : State, (s.runState = .running ↔ s.observe = none) ∧
    ∀ r, s.observe = some r → (∀ i : Reg, r.regs[i] = s.reg i) ∧ r.pc = s.pc ∧ r.flags = s.flags ∧ r.status = s.runState

/-- The invariant holds after reset and after loading any image, for every legal choice of the parameters (10_state.md
sections 3 and 8, 70_reset_and_hazards.md section 2; rests on the spec's decisions D9 range of PC_END, D10 bound on
STACK_BASE, D13 flags and run state at reset, D24 load port; log entries 1, 4, 10, 19; the canonical form of memory is the
model's own, log entry 4). -/
def Obligations.InvariantHoldsAtBoot : Prop :=
  (∀ (p : Params) (image : List (Word × Word)), p.valid → (State.boot p image).Inv) ∧ State.reset.Inv

/-- From every state with the invariant, each instruction completes, in the one mode the machine has, and keeps the
invariant: legal parameters, `sp` in its window, canonical memories, `lr` zero, Z and S never both set (60_exceptions.md
section 6, 10_state.md section 3; rests on the spec's decisions D10 bound on STACK_BASE, D12 flags kept, D19 one mode; log
entries 1, 4, 10, 24; the canonical form of memory is the model's own, log entry 4). -/
def Obligations.EveryInstructionCompletesAndKeepsInvariant : Prop :=
  ∀ (i : Instr) (s : State), s.Inv → ∃ t, exec i s = .next t ∧ t.Inv

/-- From every state with the invariant a step answers a next state, never a fault or a refusal of the model, and keeps the
invariant (10_state.md section 3, 60_exceptions.md section 1; rests on the spec's decisions D10 bound on STACK_BASE, D12
flags kept, D23 steps of a halted state; log entries 1, 4, 10, 12; the canonical form of memory is the model's own, log entry
4, and that a step of a halted state answers a next state its choice, log entry 12). -/
def Obligations.StepKeepsInvariant : Prop :=
  ∀ s : State, s.Inv → ∃ t, step s = .next t ∧ t.Inv

/-- Every run of every loaded program goes on for any number of steps, inside the invariant: `sp` stays one of the nine
values STACK_BASE - 2k (10_state.md section 3, 60_exceptions.md section 1 and U10; rests on the spec's decisions D9 range of
PC_END, D10 bound on STACK_BASE, D12 flags kept, D13 flags and run state at reset, D23 steps of a halted state, D24 load
port; log entries 1, 4, 10, 12, 19; that steps go on after a halt, as the identity, is the model's choice). -/
def Obligations.EveryBootedRunStaysInInvariant : Prop :=
  ∀ (p : Params) (image : List (Word × Word)) (k : Nat), p.valid →
    ∃ t, runFor k (State.boot p image) = .next t ∧ t.Inv ∧ (∃ n : Fin 9, t.sp.toNat + 2 * n.val = p.stackBase.toNat)

/-- No behaviour depends on the value of STACK_BASE: moving the base, `sp` with it, moves the whole run and changes nothing
else (00_scope.md section 4, the open parameters; rests on the spec's decisions D10 bound on STACK_BASE, D23 steps of a
halted state; log entries 1, 12). -/
def Obligations.StackBaseIsUnobservable : Prop :=
  ∀ (k : Nat) (s t : State) (base : Word), s.Inv → 16 ≤ base.toNat → runFor k s = .next t →
    runFor k (s.rebase base) = .next (t.rebase base)
end

