-- ==== Sys2Proof/Laws/State.lean ====
section
/-! SUPPORT. One lemma per field per update of the state, true by rfl, and the reads of the state after each update. -/

namespace Sys2Proof.Machine.State

variable (s : State)

/-! ### setReg -/

@[simp] theorem setReg_regs (r : Reg) (v : Word) : (s.setReg r v).regs = s.regs.set r v := rfl
@[simp] theorem setReg_pc (r : Reg) (v : Word) : (s.setReg r v).pc = s.pc := rfl
@[simp] theorem setReg_lr (r : Reg) (v : Word) : (s.setReg r v).lr = s.lr := rfl
@[simp] theorem setReg_sp (r : Reg) (v : Word) : (s.setReg r v).sp = s.sp := rfl
@[simp] theorem setReg_flags (r : Reg) (v : Word) : (s.setReg r v).flags = s.flags := rfl
@[simp] theorem setReg_runState (r : Reg) (v : Word) : (s.setReg r v).runState = s.runState := rfl
@[simp] theorem setReg_progMem (r : Reg) (v : Word) : (s.setReg r v).progMem = s.progMem := rfl
@[simp] theorem setReg_dataMem (r : Reg) (v : Word) : (s.setReg r v).dataMem = s.dataMem := rfl
@[simp] theorem setReg_stack (r : Reg) (v : Word) : (s.setReg r v).stack = s.stack := rfl
@[simp] theorem setReg_params (r : Reg) (v : Word) : (s.setReg r v).params = s.params := rfl

/-! ### setFlags -/

@[simp] theorem setFlags_regs (f : Flags) : (s.setFlags f).regs = s.regs := rfl
@[simp] theorem setFlags_pc (f : Flags) : (s.setFlags f).pc = s.pc := rfl
@[simp] theorem setFlags_lr (f : Flags) : (s.setFlags f).lr = s.lr := rfl
@[simp] theorem setFlags_sp (f : Flags) : (s.setFlags f).sp = s.sp := rfl
@[simp] theorem setFlags_flags (f : Flags) : (s.setFlags f).flags = f := rfl
@[simp] theorem setFlags_runState (f : Flags) : (s.setFlags f).runState = s.runState := rfl
@[simp] theorem setFlags_progMem (f : Flags) : (s.setFlags f).progMem = s.progMem := rfl
@[simp] theorem setFlags_dataMem (f : Flags) : (s.setFlags f).dataMem = s.dataMem := rfl
@[simp] theorem setFlags_stack (f : Flags) : (s.setFlags f).stack = s.stack := rfl
@[simp] theorem setFlags_params (f : Flags) : (s.setFlags f).params = s.params := rfl

/-! ### setPc -/

@[simp] theorem setPc_regs (v : Word) : (s.setPc v).regs = s.regs := rfl
@[simp] theorem setPc_pc (v : Word) : (s.setPc v).pc = v := rfl
@[simp] theorem setPc_lr (v : Word) : (s.setPc v).lr = s.lr := rfl
@[simp] theorem setPc_sp (v : Word) : (s.setPc v).sp = s.sp := rfl
@[simp] theorem setPc_flags (v : Word) : (s.setPc v).flags = s.flags := rfl
@[simp] theorem setPc_runState (v : Word) : (s.setPc v).runState = s.runState := rfl
@[simp] theorem setPc_progMem (v : Word) : (s.setPc v).progMem = s.progMem := rfl
@[simp] theorem setPc_dataMem (v : Word) : (s.setPc v).dataMem = s.dataMem := rfl
@[simp] theorem setPc_stack (v : Word) : (s.setPc v).stack = s.stack := rfl
@[simp] theorem setPc_params (v : Word) : (s.setPc v).params = s.params := rfl

/-! ### setSp -/

@[simp] theorem setSp_regs (v : Word) : (s.setSp v).regs = s.regs := rfl
@[simp] theorem setSp_pc (v : Word) : (s.setSp v).pc = s.pc := rfl
@[simp] theorem setSp_lr (v : Word) : (s.setSp v).lr = s.lr := rfl
@[simp] theorem setSp_sp (v : Word) : (s.setSp v).sp = v := rfl
@[simp] theorem setSp_flags (v : Word) : (s.setSp v).flags = s.flags := rfl
@[simp] theorem setSp_runState (v : Word) : (s.setSp v).runState = s.runState := rfl
@[simp] theorem setSp_progMem (v : Word) : (s.setSp v).progMem = s.progMem := rfl
@[simp] theorem setSp_dataMem (v : Word) : (s.setSp v).dataMem = s.dataMem := rfl
@[simp] theorem setSp_stack (v : Word) : (s.setSp v).stack = s.stack := rfl
@[simp] theorem setSp_params (v : Word) : (s.setSp v).params = s.params := rfl

/-! ### setRunState -/

@[simp] theorem setRunState_regs (r : RunState) : (s.setRunState r).regs = s.regs := rfl
@[simp] theorem setRunState_pc (r : RunState) : (s.setRunState r).pc = s.pc := rfl
@[simp] theorem setRunState_lr (r : RunState) : (s.setRunState r).lr = s.lr := rfl
@[simp] theorem setRunState_sp (r : RunState) : (s.setRunState r).sp = s.sp := rfl
@[simp] theorem setRunState_flags (r : RunState) : (s.setRunState r).flags = s.flags := rfl
@[simp] theorem setRunState_runState (r : RunState) : (s.setRunState r).runState = r := rfl
@[simp] theorem setRunState_progMem (r : RunState) : (s.setRunState r).progMem = s.progMem := rfl
@[simp] theorem setRunState_dataMem (r : RunState) : (s.setRunState r).dataMem = s.dataMem := rfl
@[simp] theorem setRunState_stack (r : RunState) : (s.setRunState r).stack = s.stack := rfl
@[simp] theorem setRunState_params (r : RunState) : (s.setRunState r).params = s.params := rfl

/-! ### dataWrite -/

@[simp] theorem dataWrite_regs (a v : Word) : (s.dataWrite a v).regs = s.regs := rfl
@[simp] theorem dataWrite_pc (a v : Word) : (s.dataWrite a v).pc = s.pc := rfl
@[simp] theorem dataWrite_lr (a v : Word) : (s.dataWrite a v).lr = s.lr := rfl
@[simp] theorem dataWrite_sp (a v : Word) : (s.dataWrite a v).sp = s.sp := rfl
@[simp] theorem dataWrite_flags (a v : Word) : (s.dataWrite a v).flags = s.flags := rfl
@[simp] theorem dataWrite_runState (a v : Word) : (s.dataWrite a v).runState = s.runState := rfl
@[simp] theorem dataWrite_progMem (a v : Word) : (s.dataWrite a v).progMem = s.progMem := rfl
@[simp] theorem dataWrite_dataMem (a v : Word) : (s.dataWrite a v).dataMem = s.dataMem.write a.toNat v := rfl
@[simp] theorem dataWrite_stack (a v : Word) : (s.dataWrite a v).stack = s.stack := rfl
@[simp] theorem dataWrite_params (a v : Word) : (s.dataWrite a v).params = s.params := rfl

/-! ### stackWrite -/

@[simp] theorem stackWrite_regs (k : Fin 8) (v : Word) : (s.stackWrite k v).regs = s.regs := rfl
@[simp] theorem stackWrite_pc (k : Fin 8) (v : Word) : (s.stackWrite k v).pc = s.pc := rfl
@[simp] theorem stackWrite_lr (k : Fin 8) (v : Word) : (s.stackWrite k v).lr = s.lr := rfl
@[simp] theorem stackWrite_sp (k : Fin 8) (v : Word) : (s.stackWrite k v).sp = s.sp := rfl
@[simp] theorem stackWrite_flags (k : Fin 8) (v : Word) : (s.stackWrite k v).flags = s.flags := rfl
@[simp] theorem stackWrite_runState (k : Fin 8) (v : Word) : (s.stackWrite k v).runState = s.runState := rfl
@[simp] theorem stackWrite_progMem (k : Fin 8) (v : Word) : (s.stackWrite k v).progMem = s.progMem := rfl
@[simp] theorem stackWrite_dataMem (k : Fin 8) (v : Word) : (s.stackWrite k v).dataMem = s.dataMem := rfl
@[simp] theorem stackWrite_stack (k : Fin 8) (v : Word) : (s.stackWrite k v).stack = s.stack.set k v := rfl
@[simp] theorem stackWrite_params (k : Fin 8) (v : Word) : (s.stackWrite k v).params = s.params := rfl

/-! ### load -/

@[simp] theorem load_regs (a v : Word) : (s.load a v).regs = s.regs := rfl
@[simp] theorem load_pc (a v : Word) : (s.load a v).pc = s.pc := rfl
@[simp] theorem load_lr (a v : Word) : (s.load a v).lr = s.lr := rfl
@[simp] theorem load_sp (a v : Word) : (s.load a v).sp = s.sp := rfl
@[simp] theorem load_flags (a v : Word) : (s.load a v).flags = s.flags := rfl
@[simp] theorem load_runState (a v : Word) : (s.load a v).runState = s.runState := rfl
@[simp] theorem load_progMem (a v : Word) : (s.load a v).progMem = s.progMem.write a.toNat v := rfl
@[simp] theorem load_dataMem (a v : Word) : (s.load a v).dataMem = s.dataMem := rfl
@[simp] theorem load_stack (a v : Word) : (s.load a v).stack = s.stack := rfl
@[simp] theorem load_params (a v : Word) : (s.load a v).params = s.params := rfl

/-! ### advance -/

@[simp] theorem advance_regs : (s.advance).regs = s.regs := rfl
@[simp] theorem advance_pc : (s.advance).pc = BitVec.ofNat 16 (s.pc.toNat + 2) := rfl
@[simp] theorem advance_lr : (s.advance).lr = s.lr := rfl
@[simp] theorem advance_sp : (s.advance).sp = s.sp := rfl
@[simp] theorem advance_flags : (s.advance).flags = s.flags := rfl
@[simp] theorem advance_runState : (s.advance).runState = s.runState := rfl
@[simp] theorem advance_progMem : (s.advance).progMem = s.progMem := rfl
@[simp] theorem advance_dataMem : (s.advance).dataMem = s.dataMem := rfl
@[simp] theorem advance_stack : (s.advance).stack = s.stack := rfl
@[simp] theorem advance_params : (s.advance).params = s.params := rfl

/-! ### haltNormal -/

@[simp] theorem haltNormal_regs : (s.haltNormal).regs = s.regs := rfl
@[simp] theorem haltNormal_pc : (s.haltNormal).pc = s.pc := rfl
@[simp] theorem haltNormal_lr : (s.haltNormal).lr = s.lr := rfl
@[simp] theorem haltNormal_sp : (s.haltNormal).sp = s.sp := rfl
@[simp] theorem haltNormal_flags : (s.haltNormal).flags = s.flags := rfl
@[simp] theorem haltNormal_runState : (s.haltNormal).runState = .haltedNormal := rfl
@[simp] theorem haltNormal_progMem : (s.haltNormal).progMem = s.progMem := rfl
@[simp] theorem haltNormal_dataMem : (s.haltNormal).dataMem = s.dataMem := rfl
@[simp] theorem haltNormal_stack : (s.haltNormal).stack = s.stack := rfl
@[simp] theorem haltNormal_params : (s.haltNormal).params = s.params := rfl

/-! ### raise -/

@[simp] theorem raise_regs (c : FaultCause) : (s.raise c).regs = s.regs := rfl
@[simp] theorem raise_pc (c : FaultCause) : (s.raise c).pc = s.pc := rfl
@[simp] theorem raise_lr (c : FaultCause) : (s.raise c).lr = s.lr := rfl
@[simp] theorem raise_sp (c : FaultCause) : (s.raise c).sp = s.sp := rfl
@[simp] theorem raise_flags (c : FaultCause) : (s.raise c).flags = s.flags := rfl
@[simp] theorem raise_runState (c : FaultCause) : (s.raise c).runState = .haltedFault c := rfl
@[simp] theorem raise_progMem (c : FaultCause) : (s.raise c).progMem = s.progMem := rfl
@[simp] theorem raise_dataMem (c : FaultCause) : (s.raise c).dataMem = s.dataMem := rfl
@[simp] theorem raise_stack (c : FaultCause) : (s.raise c).stack = s.stack := rfl
@[simp] theorem raise_params (c : FaultCause) : (s.raise c).params = s.params := rfl

/-! ### Reads after updates of another field -/

@[simp] theorem dataRead_setReg (r : Reg) (v : Word) (b : Word) : (s.setReg r v).dataRead b = s.dataRead b := rfl
@[simp] theorem progRead_setReg (r : Reg) (v : Word) (b : Word) : (s.setReg r v).progRead b = s.progRead b := rfl
@[simp] theorem stackRead_setReg (r : Reg) (v : Word) (j : Fin 8) : (s.setReg r v).stackRead j = s.stackRead j := rfl
@[simp] theorem reg_setFlags (f : Flags) (i : Reg) : (s.setFlags f).reg i = s.reg i := rfl
@[simp] theorem dataRead_setFlags (f : Flags) (b : Word) : (s.setFlags f).dataRead b = s.dataRead b := rfl
@[simp] theorem progRead_setFlags (f : Flags) (b : Word) : (s.setFlags f).progRead b = s.progRead b := rfl
@[simp] theorem stackRead_setFlags (f : Flags) (j : Fin 8) : (s.setFlags f).stackRead j = s.stackRead j := rfl
@[simp] theorem reg_setPc (v : Word) (i : Reg) : (s.setPc v).reg i = s.reg i := rfl
@[simp] theorem dataRead_setPc (v : Word) (b : Word) : (s.setPc v).dataRead b = s.dataRead b := rfl
@[simp] theorem progRead_setPc (v : Word) (b : Word) : (s.setPc v).progRead b = s.progRead b := rfl
@[simp] theorem stackRead_setPc (v : Word) (j : Fin 8) : (s.setPc v).stackRead j = s.stackRead j := rfl
@[simp] theorem reg_setSp (v : Word) (i : Reg) : (s.setSp v).reg i = s.reg i := rfl
@[simp] theorem dataRead_setSp (v : Word) (b : Word) : (s.setSp v).dataRead b = s.dataRead b := rfl
@[simp] theorem progRead_setSp (v : Word) (b : Word) : (s.setSp v).progRead b = s.progRead b := rfl
@[simp] theorem stackRead_setSp (v : Word) (j : Fin 8) : (s.setSp v).stackRead j = s.stackRead j := rfl
@[simp] theorem reg_setRunState (r : RunState) (i : Reg) : (s.setRunState r).reg i = s.reg i := rfl
@[simp] theorem dataRead_setRunState (r : RunState) (b : Word) : (s.setRunState r).dataRead b = s.dataRead b := rfl
@[simp] theorem progRead_setRunState (r : RunState) (b : Word) : (s.setRunState r).progRead b = s.progRead b := rfl
@[simp] theorem stackRead_setRunState (r : RunState) (j : Fin 8) : (s.setRunState r).stackRead j = s.stackRead j := rfl
@[simp] theorem reg_dataWrite (a v : Word) (i : Reg) : (s.dataWrite a v).reg i = s.reg i := rfl
@[simp] theorem progRead_dataWrite (a v : Word) (b : Word) : (s.dataWrite a v).progRead b = s.progRead b := rfl
@[simp] theorem stackRead_dataWrite (a v : Word) (j : Fin 8) : (s.dataWrite a v).stackRead j = s.stackRead j := rfl
@[simp] theorem reg_stackWrite (k : Fin 8) (v : Word) (i : Reg) : (s.stackWrite k v).reg i = s.reg i := rfl
@[simp] theorem dataRead_stackWrite (k : Fin 8) (v : Word) (b : Word) : (s.stackWrite k v).dataRead b = s.dataRead b := rfl
@[simp] theorem progRead_stackWrite (k : Fin 8) (v : Word) (b : Word) : (s.stackWrite k v).progRead b = s.progRead b := rfl
@[simp] theorem reg_load (a v : Word) (i : Reg) : (s.load a v).reg i = s.reg i := rfl
@[simp] theorem dataRead_load (a v : Word) (b : Word) : (s.load a v).dataRead b = s.dataRead b := rfl
@[simp] theorem stackRead_load (a v : Word) (j : Fin 8) : (s.load a v).stackRead j = s.stackRead j := rfl
@[simp] theorem reg_advance (i : Reg) : (s.advance).reg i = s.reg i := rfl
@[simp] theorem dataRead_advance (b : Word) : (s.advance).dataRead b = s.dataRead b := rfl
@[simp] theorem progRead_advance (b : Word) : (s.advance).progRead b = s.progRead b := rfl
@[simp] theorem stackRead_advance (j : Fin 8) : (s.advance).stackRead j = s.stackRead j := rfl
@[simp] theorem reg_haltNormal (i : Reg) : (s.haltNormal).reg i = s.reg i := rfl
@[simp] theorem dataRead_haltNormal (b : Word) : (s.haltNormal).dataRead b = s.dataRead b := rfl
@[simp] theorem progRead_haltNormal (b : Word) : (s.haltNormal).progRead b = s.progRead b := rfl
@[simp] theorem stackRead_haltNormal (j : Fin 8) : (s.haltNormal).stackRead j = s.stackRead j := rfl
@[simp] theorem reg_raise (c : FaultCause) (i : Reg) : (s.raise c).reg i = s.reg i := rfl
@[simp] theorem dataRead_raise (c : FaultCause) (b : Word) : (s.raise c).dataRead b = s.dataRead b := rfl
@[simp] theorem progRead_raise (c : FaultCause) (b : Word) : (s.raise c).progRead b = s.progRead b := rfl
@[simp] theorem stackRead_raise (c : FaultCause) (j : Fin 8) : (s.raise c).stackRead j = s.stackRead j := rfl

/-! ### Reads after updates of the same field -/

theorem reg_setReg (r i : Reg) (v : Word) : (s.setReg r v).reg i = if i = r then v else s.reg i := by
  simp only [reg, setReg, Fin.getElem_fin, Vector.getElem_set, Fin.ext_iff, eq_comm]

@[simp] theorem reg_setReg_same (r : Reg) (v : Word) : (s.setReg r v).reg r = v := by
  simp [reg_setReg]

@[simp] theorem reg_setReg_of_ne (r i : Reg) (v : Word) (h : i ≠ r) : (s.setReg r v).reg i = s.reg i := by
  simp [reg_setReg, h]

theorem stackRead_stackWrite (k j : Fin 8) (v : Word) :
    (s.stackWrite k v).stackRead j = if j = k then v else s.stackRead j := by
  simp only [stackRead, stackWrite, Fin.getElem_fin, Vector.getElem_set, Fin.ext_iff, eq_comm]

@[simp] theorem stackRead_stackWrite_same (k : Fin 8) (v : Word) : (s.stackWrite k v).stackRead k = v := by
  simp [stackRead_stackWrite]

@[simp] theorem stackRead_stackWrite_of_ne (k j : Fin 8) (v : Word) (h : j ≠ k) :
    (s.stackWrite k v).stackRead j = s.stackRead j := by
  simp [stackRead_stackWrite, h]

/-! ### Reset -/

@[simp] theorem resetWith_reg (p : Params) (i : Reg) : (resetWith p).reg i = 0 := by
  simp [reg, resetWith]

@[simp] theorem resetWith_stackRead (p : Params) (k : Fin 8) : (resetWith p).stackRead k = 0 := by
  simp [stackRead, resetWith]

@[simp] theorem resetWith_dataRead (p : Params) (a : Word) : (resetWith p).dataRead a = 0 := rfl

@[simp] theorem resetWith_progRead (p : Params) (a : Word) : (resetWith p).progRead a = 0 := rfl

end Sys2Proof.Machine.State
end

