-- ==== Sys2Proof/Laws/Memory.lean ====
section
/-! SUPPORT. The laws of memory: a read after a write, and the canonical form, which every operation keeps and in which
equal memories are equal lists. -/

namespace Sys2Proof.Machine

namespace Memory

theorem read_erase (m : Memory) (a b : Nat) : (erase m a).read b = if b = a then unlisted else m.read b := by
  induction m with
  | nil => simp [erase, read]
  | cons e m ih =>
    obtain ⟨c, w⟩ := e
    simp only [erase, read]
    split_ifs <;> simp_all [read]

theorem erase_no_entry (m : Memory) (a : Nat) : ∀ e ∈ erase m a, e.1 ≠ a := by
  induction m with
  | nil => simp [erase]
  | cons e m ih =>
    obtain ⟨c, w⟩ := e
    simp only [erase]
    split_ifs with h
    · exact ih
    · simpa using ⟨fun h' => h h'.symm, fun x y => ih (x, y)⟩

theorem read_insert (m : Memory) (a b : Nat) (v : Word) (hm : ∀ e ∈ m, e.1 ≠ a) :
    (insert m a v).read b = if b = a then v else m.read b := by
  induction m with
  | nil => simp [insert, read]
  | cons e m ih =>
    obtain ⟨c, w⟩ := e
    have hc : c ≠ a := hm (c, w) (by simp)
    have ih := ih fun e he => hm e (by simp [he])
    simp only [insert]
    split_ifs with h1 h2 h2
    · simp [read, h2]
    · simp [read, h2]
    · subst h2; simp [read, Ne.symm hc, ih]
    · simp [read, ih, h2]

/-- A read after a write: the written word at the written address, the old word at every other. -/
theorem read_write (m : Memory) (a b : Nat) (v : Word) :
    (m.write a v).read b = if b = a then v else m.read b := by
  unfold write
  split_ifs with hv hb hb
  · simp [read_erase, hb, hv]
  · simp [read_erase, hb]
  · simp [read_insert _ _ _ _ (erase_no_entry m a), hb]
  · simp [read_insert _ _ _ _ (erase_no_entry m a), read_erase, hb]

/-! ### The canonical form -/

theorem wfFrom_mono {m : Memory} {low low' : Nat} (h : wfFrom low m = true) (hl : low' ≤ low) :
    wfFrom low' m = true := by
  cases m with
  | nil => rfl
  | cons e m =>
    simp only [wfFrom, Bool.and_eq_true, decide_eq_true_eq] at h ⊢
    exact ⟨⟨⟨by omega, h.1.1.2⟩, h.1.2⟩, h.2⟩

theorem wfFrom_erase {m : Memory} {low : Nat} (a : Nat) (h : wfFrom low m = true) :
    wfFrom low (erase m a) = true := by
  induction m generalizing low with
  | nil => rfl
  | cons e m ih =>
    simp only [wfFrom, Bool.and_eq_true, decide_eq_true_eq] at h
    simp only [erase]
    split_ifs
    · exact wfFrom_mono (ih h.2) (by omega)
    · simp only [wfFrom, Bool.and_eq_true, decide_eq_true_eq]
      exact ⟨h.1, ih h.2⟩

theorem wfFrom_insert {m : Memory} {low a : Nat} {v : Word} (h : wfFrom low m = true) (hl : low ≤ a)
    (ha : a < 0x10000) (hv : v ≠ unlisted) (hm : ∀ e ∈ m, e.1 ≠ a) : wfFrom low (insert m a v) = true := by
  induction m generalizing low with
  | nil => simp [insert, wfFrom, hl, ha, hv]
  | cons e m ih =>
    obtain ⟨c, w⟩ := e
    have hc : c ≠ a := hm (c, w) (by simp)
    simp only [wfFrom, Bool.and_eq_true, decide_eq_true_eq] at h
    simp only [insert]
    split_ifs with hlt
    · simp only [wfFrom, Bool.and_eq_true, decide_eq_true_eq]
      exact ⟨⟨⟨hl, ha⟩, hv⟩, ⟨⟨⟨hlt, h.1.1.2⟩, h.1.2⟩, h.2⟩⟩
    · simp only [wfFrom, Bool.and_eq_true, decide_eq_true_eq]
      exact ⟨h.1, ih h.2 (by omega) fun e he => hm e (by simp [he])⟩

/-- Every write of a 16-bit address keeps the canonical form. -/
theorem wf_write {m : Memory} (a v : Word) (h : m.wf = true) : (m.write a.toNat v).wf = true := by
  unfold write
  split_ifs with hv
  · exact wfFrom_erase _ h
  · exact wfFrom_insert (wfFrom_erase _ h) (Nat.zero_le _) a.isLt hv (erase_no_entry _ _)

theorem read_below {m : Memory} {low a : Nat} (h : wfFrom low m = true) (ha : a < low) : m.read a = unlisted := by
  induction m generalizing low with
  | nil => rfl
  | cons e m ih =>
    simp only [wfFrom, Bool.and_eq_true, decide_eq_true_eq] at h
    simp only [read, if_neg (show ¬ a = e.1 by omega)]
    exact ih h.2 (by omega)

theorem read_head {m : Memory} {low a : Nat} {w : Word} (h : wfFrom low ((a, w) :: m) = true) :
    w ≠ unlisted ∧ low ≤ a := by
  simp only [wfFrom, Bool.and_eq_true, decide_eq_true_eq] at h
  exact ⟨h.1.2, h.1.1.1⟩

theorem eq_of_wfFrom {m n : Memory} {low : Nat} (hm : wfFrom low m = true) (hn : wfFrom low n = true)
    (h : ∀ a, m.read a = n.read a) : m = n := by
  induction m generalizing low n with
  | nil =>
    cases n with
    | nil => rfl
    | cons e n =>
      have := h e.1
      simp only [read, if_true] at this
      exact absurd this.symm (read_head hn).1
  | cons e m ih =>
    obtain ⟨a, w⟩ := e
    cases n with
    | nil =>
      have := h a
      simp only [read, if_true] at this
      exact absurd this (read_head hm).1
    | cons e' n =>
      obtain ⟨b, v⟩ := e'
      have hw := (read_head hm).1
      have hv := (read_head hn).1
      simp only [wfFrom, Bool.and_eq_true, decide_eq_true_eq] at hm hn
      have hab : a = b := by
        rcases Nat.lt_trichotomy a b with hlt | heq | hgt
        · have := h a
          simp only [read, if_true, if_neg (show ¬ a = b by omega)] at this
          exact absurd (this.trans (read_below hn.2 (by omega))) hw
        · exact heq
        · have := h b
          simp only [read, if_true, if_neg (show ¬ b = a by omega)] at this
          exact absurd (this.symm.trans (read_below hm.2 (by omega))) hv
      subst hab
      have hwv : w = v := by simpa [read] using h a
      subst hwv
      rw [ih hm.2 hn.2 fun x => ?_]
      by_cases hx : x = a
      · subst hx
        rw [read_below hm.2 (by omega), read_below hn.2 (by omega)]
      · simpa [read, hx] using h x

/-- Two memories in canonical form that read alike everywhere are the same list. -/
theorem eq_of_wf {m n : Memory} (hm : m.wf = true) (hn : n.wf = true) (h : ∀ a, m.read a = n.read a) : m = n :=
  eq_of_wfFrom hm hn h

end Memory

namespace State

variable (s : State)

theorem dataRead_dataWrite (a b v : Word) : (s.dataWrite a v).dataRead b = if b = a then v else s.dataRead b := by
  simp only [dataRead, dataWrite, Memory.read_write, BitVec.toNat_inj]

@[simp] theorem dataRead_dataWrite_same (a v : Word) : (s.dataWrite a v).dataRead a = v := by
  simp [dataRead_dataWrite]

@[simp] theorem dataRead_dataWrite_of_ne (a b v : Word) (h : b ≠ a) : (s.dataWrite a v).dataRead b = s.dataRead b := by
  simp [dataRead_dataWrite, h]

theorem progRead_load (a b v : Word) : (s.load a v).progRead b = if b = a then v else s.progRead b := by
  simp only [progRead, load, Memory.read_write, BitVec.toNat_inj]

@[simp] theorem progRead_load_same (a v : Word) : (s.load a v).progRead a = v := by
  simp [progRead_load]

@[simp] theorem progRead_load_of_ne (a b v : Word) (h : b ≠ a) : (s.load a v).progRead b = s.progRead b := by
  simp [progRead_load, h]

theorem dataWrite_wf (a v : Word) (h : s.dataMem.wf = true) : (s.dataWrite a v).dataMem.wf = true :=
  Memory.wf_write a v h

theorem load_wf (a v : Word) (h : s.progMem.wf = true) : (s.load a v).progMem.wf = true :=
  Memory.wf_write a v h

theorem reset_progMem_wf : State.reset.progMem.wf = true := rfl

theorem reset_dataMem_wf : State.reset.dataMem.wf = true := rfl

end State

end Sys2Proof.Machine
end

