-- ==== Sys2Proof/Laws/Ops.lean ====
section
/-! SUPPORT. One lemma per shared operation that says once everything it can do: the stack, write-back, jumps, the ALU,
raising a fault, the ports. -/

namespace Sys2Proof.Machine

/-! ### Parameters -/

theorem resetParams_valid : resetParams.valid :=
  ⟨by decide, Nat.lt_succ_iff.mp Config.pcEndIndex.isLt⟩

/-! ### Words -/

theorem toNat_sub_two {a : Word} (h : 2 ≤ a.toNat) : (a - 2#16).toNat = a.toNat - 2 := by
  rw [BitVec.toNat_sub]; simp; omega

theorem toNat_add_two {a : Word} (h : a.toNat + 2 < 0x10000) : (a + 2#16).toNat = a.toNat + 2 := by
  rw [BitVec.toNat_add]; simp; omega

theorem toNat_sub_sixteen {a : Word} (h : 16 ≤ a.toNat) : (a - 16#16).toNat = a.toNat - 16 := by
  rw [BitVec.toNat_sub]; simp; omega

/-! ### The stack -/

/-- Rule R40: the `sp` of a stack of `k + 1` words has slot `k`. -/
theorem slotOf_eq_some {base a : Word} {k : Fin 8} :
    slotOf base a = some k ↔ a.toNat + 2 * (k.val + 1) = base.toNat := by
  unfold slotOf
  split_ifs with h
  · simp only [Option.some.injEq, Fin.ext_iff]; omega
  · simp only [false_iff]; omega

/-- Rule R38, full: nothing is pushed. -/
theorem push_full {s : State} (v : Word) (hp : s.params.valid) (h : s.hasDepth 8) : s.push v = .stackFault := by
  have : s.sp = s.params.stackBase - 16#16 := by
    apply BitVec.eq_of_toNat_eq
    rw [toNat_sub_sixteen hp.1]
    omega
  simp [State.push, State.stackFull, this]

/-- Rule R38, not full: with `k` words on the stack the value goes to slot `k` and `sp` goes down by 2. -/
theorem push_done {s : State} {k : Fin 8} (v : Word) (hp : s.params.valid) (h : s.hasDepth k.val) :
    s.push v = .done ((s.stackWrite k v).setSp (s.sp - 2#16)) := by
  have hb := hp.1
  have hf : ¬ s.sp = s.params.stackBase - 16#16 := by
    intro e
    have := congrArg BitVec.toNat e
    rw [toNat_sub_sixteen hb] at this
    omega
  have hs : slotOf s.params.stackBase (s.sp - 2#16) = some k := by
    rw [slotOf_eq_some, toNat_sub_two (by omega)]
    omega
  simp [State.push, State.stackFull, hf, hs]

/-- Rule R39, empty: nothing is popped. -/
theorem pop_empty {s : State} (h : s.hasDepth 0) : s.pop = .stackFault := by
  have : s.sp = s.params.stackBase := BitVec.eq_of_toNat_eq (by omega)
  simp [State.pop, State.stackEmpty, this]

/-- Rule R39, not empty: with `k + 1` words on the stack the value is slot `k`'s and `sp` goes up by 2. -/
theorem pop_done {s : State} {k : Fin 8} (h : s.hasDepth (k.val + 1)) :
    s.pop = .done (s.stackRead k, s.setSp (s.sp + 2#16)) := by
  have hf : ¬ s.sp = s.params.stackBase := by
    intro e
    have := congrArg BitVec.toNat e
    omega
  simp [State.pop, State.stackEmpty, hf, slotOf_eq_some.mpr h]

/-- Everything a push can do. -/
theorem push_cases (s : State) (v : Word) :
    (s.sp = s.params.stackBase - 16#16 ∧ s.push v = .stackFault) ∨
    (∃ k, slotOf s.params.stackBase (s.sp - 2#16) = some k ∧ s.push v = .done ((s.stackWrite k v).setSp (s.sp - 2#16))) ∨
    s.push v = .noSlot := by
  unfold State.push State.stackFull
  by_cases h : s.sp = s.params.stackBase - 16#16
  · exact .inl ⟨h, by simp [h]⟩
  · simp only [h, decide_false, Bool.false_eq_true, if_false, false_and, false_or]
    cases hs : slotOf s.params.stackBase (s.sp - 2#16) with
      | none => exact .inr rfl
      | some k => exact .inl ⟨k, rfl, rfl⟩

/-- Everything a pop can do. -/
theorem pop_cases (s : State) :
    (s.sp = s.params.stackBase ∧ s.pop = .stackFault) ∨
    (∃ k, slotOf s.params.stackBase s.sp = some k ∧ s.pop = .done (s.stackRead k, s.setSp (s.sp + 2#16))) ∨
    s.pop = .noSlot := by
  unfold State.pop State.stackEmpty
  by_cases h : s.sp = s.params.stackBase
  · exact .inl ⟨h, by simp [h]⟩
  · simp only [h, decide_false, Bool.false_eq_true, if_false, false_and, false_or]
    cases hs : slotOf s.params.stackBase s.sp with
      | none => exact .inr rfl
      | some k => exact .inl ⟨k, rfl, rfl⟩

/-! ### Advancing, jumping, writing back -/

theorem advance_pc_toNat (s : State) : s.advance.pc.toNat = (s.pc.toNat + 2) % 0x10000 := by simp

theorem jumpIf_eq (s : State) (b : Bool) (off : Int) :
    s.jumpIf b off = s.setPc (if b then jumpTarget s.pc off else s.advance.pc) := by
  cases b <;> rfl

theorem jumpTarget_toNat (pc : Word) (off : Int) :
    ((jumpTarget pc off).toNat : Int) = ((pc.toNat : Int) + off) % 0x10000 := by
  rw [jumpTarget, BitVec.toNat_ofInt]
  omega

theorem writeBack_eq (s : State) (rd : Reg) (v : Word) :
    s.writeBack rd v = (s.setReg rd v).setPc s.advance.pc := rfl

theorem aluWriteBack_eq (s : State) (op : AluOp) (rd : Reg) (a b : Word) :
    s.aluWriteBack op rd a b = ((s.setFlags (aluFlags op a b)).setReg rd (aluResult op a b)).setPc s.advance.pc := rfl

/-! ### The fields of the ALU's flag update -/

@[simp] theorem aluFlags_c (op : AluOp) (a b : Word) : (aluFlags op a b).c = aluCarry op a b := rfl
@[simp] theorem aluFlags_ov (op : AluOp) (a b : Word) : (aluFlags op a b).ov = aluOverflow op a b := rfl
@[simp] theorem aluFlags_z (op : AluOp) (a b : Word) : (aluFlags op a b).z = zeroFlag (aluResult op a b) := rfl
@[simp] theorem aluFlags_s (op : AluOp) (a b : Word) : (aluFlags op a b).s = signFlag (aluResult op a b) := rfl
@[simp] theorem cmpFlags_c (a b : Word) (f : Flags) : (cmpFlags a b f).c = f.c := rfl
@[simp] theorem cmpFlags_ov (a b : Word) (f : Flags) : (cmpFlags a b f).ov = f.ov := rfl
@[simp] theorem cmpFlags_z (a b : Word) (f : Flags) : (cmpFlags a b f).z = decide (a = b) := rfl
@[simp] theorem cmpFlags_s (a b : Word) (f : Flags) : (cmpFlags a b f).s = decide (a.toNat < b.toNat) := rfl

/-- A zero result has sign 0, so the ALU never sets Z and S together. -/
theorem aluFlags_exclusive (op : AluOp) (a b : Word) : ¬ ((aluFlags op a b).z = true ∧ (aluFlags op a b).s = true) := by
  simp only [aluFlags_z, aluFlags_s, zeroFlag, signFlag, sign, decide_eq_true_eq]
  rintro ⟨h, h'⟩
  rw [h] at h'
  exact absurd h' (by decide)

theorem cmpFlags_exclusive (a b : Word) (f : Flags) : ¬ ((cmpFlags a b f).z = true ∧ (cmpFlags a b f).s = true) := by
  simp only [cmpFlags_z, cmpFlags_s, decide_eq_true_eq]
  rintro ⟨rfl, h⟩
  exact absurd h (Nat.lt_irrefl _)

/-! ### The instructions that use the stack: everything they can do -/

theorem execPsh_cases (rt : Reg) (s : State) :
    (s.sp = s.params.stackBase - 16#16 ∧ execPsh rt s = .next (s.raise .stackFault)) ∨
    (∃ k, slotOf s.params.stackBase (s.sp - 2#16) = some k ∧
      execPsh rt s = .next ((s.stackWrite k (s.reg rt)).setSp (s.sp - 2#16)).advance) ∨
    execPsh rt s = .fault .stackPointerOutsideWindow := by
  unfold execPsh
  rcases push_cases s (s.reg rt) with ⟨h, e⟩ | ⟨k, h, e⟩ | e <;> rw [e]
  · exact .inl ⟨h, rfl⟩
  · exact .inr (.inl ⟨k, h, rfl⟩)
  · exact .inr (.inr rfl)

theorem execPop_cases (rd : Reg) (s : State) :
    (s.sp = s.params.stackBase ∧ execPop rd s = .next (s.raise .stackFault)) ∨
    (∃ k, slotOf s.params.stackBase s.sp = some k ∧
      execPop rd s = .next ((s.setSp (s.sp + 2#16)).writeBack rd (s.stackRead k))) ∨
    execPop rd s = .fault .stackPointerOutsideWindow := by
  unfold execPop
  rcases pop_cases s with ⟨h, e⟩ | ⟨k, h, e⟩ | e <;> rw [e]
  · exact .inl ⟨h, rfl⟩
  · exact .inr (.inl ⟨k, h, rfl⟩)
  · exact .inr (.inr rfl)

/-! ### Repeating an instruction -/

@[simp] theorem execTimes_zero (i : Instr) (s : State) : execTimes 0 i s = .next s := rfl

theorem execTimes_succ {i : Instr} {s t : State} (h : exec i s = .next t) (n : Nat) :
    execTimes (n + 1) i s = execTimes n i t := by
  simp [execTimes, h]

/-! ### The step -/

/-- Everything a step can do (rules R140, R141). -/
theorem step_cases (s : State) :
    (s.runState ≠ .running ∧ step s = .next s) ∨
    (s.runState = .running ∧ s.params.pcEnd ≤ s.pc.toNat ∧ step s = .next s.haltNormal) ∨
    (s.runState = .running ∧ s.pc.toNat < s.params.pcEnd ∧ step s = exec (decode s.fetch) s) := by
  unfold step State.atSentinel
  cases h : s.runState with
  | running =>
    by_cases hp : s.params.pcEnd ≤ s.pc.toNat
    · exact .inr (.inl ⟨rfl, hp, by simp [hp]⟩)
    · exact .inr (.inr ⟨rfl, by omega, by simp [hp]⟩)
  | haltedNormal => exact .inl ⟨by simp, rfl⟩
  | haltedFault c => exact .inl ⟨by simp, rfl⟩

theorem runFor_zero (s : State) : runFor 0 s = .next s := rfl

theorem runFor_succ_of_step {s t : State} (h : step s = .next t) (k : Nat) : runFor (k + 1) s = runFor k t := by
  show Host.Core.run Sys2Proof.core (k + 1) s = _
  simp only [Host.Core.run]
  have : Sys2Proof.core.step s = .next t := h
  rw [this]
  rfl

theorem runFor_succ_of_fault {s : State} {f : Fault} (h : step s = .fault f) (k : Nat) :
    runFor (k + 1) s = .fault f := by
  show Host.Core.run Sys2Proof.core (k + 1) s = _
  simp only [Host.Core.run]
  rw [show Sys2Proof.core.step s = .fault f from h]
  rfl

theorem runFor_succ_of_refused {s : State} {r : Refusal} (h : step s = .refused r) (k : Nat) :
    runFor (k + 1) s = .refused r := by
  show Host.Core.run Sys2Proof.core (k + 1) s = _
  simp only [Host.Core.run]
  rw [show Sys2Proof.core.step s = .refused r from h]
  rfl

/-- A relation that is reflexive, transitive and holds over every step holds over every run. -/
theorem runFor_induction {P : State → State → Prop} (refl : ∀ s, P s s) (trans : ∀ s t u, P s t → P t u → P s u)
    (one : ∀ s t, step s = .next t → P s t) (k : Nat) {s t : State} (h : runFor k s = .next t) : P s t := by
  induction k generalizing s with
  | zero => cases h; exact refl _
  | succ k ih =>
    cases e : step s with
    | next u => rw [runFor_succ_of_step e] at h; exact trans _ _ _ (one _ _ e) (ih h)
    | fault f => rw [runFor_succ_of_fault e] at h; cases h
    | refused r => rw [runFor_succ_of_refused e] at h; cases h

/-! ### The ports -/

theorem loadImage_cons (s : State) (d : Word × Word) (image : List (Word × Word)) :
    s.loadImage (d :: image) = (s.load d.1 d.2).loadImage image := rfl

/-- Loading an image changes program memory alone, and keeps its canonical form (rule R163). -/
theorem loadImage_spec (s : State) (image : List (Word × Word)) (h : s.progMem.wf = true) :
    ∃ m : Memory, m.wf = true ∧ s.loadImage image = { s with progMem := m } := by
  induction image generalizing s with
  | nil => exact ⟨s.progMem, h, rfl⟩
  | cons d image ih =>
    obtain ⟨m, hm, e⟩ := ih (s.load d.1 d.2) (s.load_wf _ _ h)
    exact ⟨m, hm, by rw [loadImage_cons, e]; rfl⟩

end Sys2Proof.Machine
end

