-- ==== Sys2Proof/Laws/Decode.lean ====
section
/-! SUPPORT. The fields of a packed word, and the opcode table's two masks as arithmetic. -/

namespace Sys2Proof

theorem regField_val (w : Word) (lo : Nat) : (regField w lo).val = bits w (lo + 2) lo % 8 := rfl

theorem regField_eq {w : Word} {lo : Nat} {r : Reg} (h : bits w (lo + 2) lo = r.val) : regField w lo = r := by
  apply Fin.ext
  rw [regField_val, h]
  exact Nat.mod_eq_of_lt r.isLt

theorem toNat_packWord {op rd rs rt sel : Nat} (h0 : op < 32) (h1 : rd < 8) (h2 : rs < 8) (h3 : rt < 8) (h4 : sel < 4) :
    (packWord op rd rs rt sel).toNat = op * 2048 + rd * 256 + rs * 32 + rt * 4 + sel := by
  rw [packWord, BitVec.toNat_ofNat]
  omega

theorem toNat_packJump {off : Int} {sel : Nat} (h : sel < 4) :
    (packJump off sel).toNat = 2048 + (off % 512).toNat * 4 + sel := by
  rw [packJump, BitVec.toNat_ofNat]
  omega

theorem toNat_packLow5 {op hi rs lo : Nat} (h0 : op < 32) (h1 : hi < 8) (h2 : rs < 8) (h3 : lo < 32) :
    (packLow5 op hi rs lo).toNat = op * 2048 + hi * 256 + rs * 32 + lo := by
  rw [packLow5, BitVec.toNat_ofNat]
  omega

/-- The fields of a packed word are what was packed (rule R51). -/
theorem packWord_fields {op rd rs rt sel : Nat} (h0 : op < 32) (h1 : rd < 8) (h2 : rs < 8) (h3 : rt < 8) (h4 : sel < 4) :
    opcodeOf (packWord op rd rs rt sel) = op ∧ bits (packWord op rd rs rt sel) 10 8 = rd ∧
    bits (packWord op rd rs rt sel) 7 5 = rs ∧ bits (packWord op rd rs rt sel) 4 2 = rt ∧
    selOf (packWord op rd rs rt sel) = sel := by
  simp only [opcodeOf, selOf, bits, toNat_packWord h0 h1 h2 h3 h4, Nat.reduceAdd, Nat.reduceSub, Nat.reducePow]
  omega

theorem packJump_fields {off : Int} {sel : Nat} (h : sel < 4) :
    opcodeOf (packJump off sel) = 1 ∧ bits (packJump off sel) 10 2 = (off % 512).toNat ∧
    selOf (packJump off sel) = sel := by
  simp only [opcodeOf, selOf, bits, toNat_packJump h, Nat.reduceAdd, Nat.reduceSub, Nat.reducePow]
  omega

theorem packLow5_fields {op hi rs lo : Nat} (h0 : op < 32) (h1 : hi < 8) (h2 : rs < 8) (h3 : lo < 32) :
    opcodeOf (packLow5 op hi rs lo) = op ∧ bits (packLow5 op hi rs lo) 10 8 = hi ∧
    bits (packLow5 op hi rs lo) 7 5 = rs ∧ bits (packLow5 op hi rs lo) 4 0 = lo := by
  simp only [opcodeOf, bits, toNat_packLow5 h0 h1 h2 h3, Nat.reduceAdd, Nat.reduceSub, Nat.reducePow]
  omega

/-- `sext_9` undoes taking an offset in range mod 512 (rule R56). -/
theorem sext9_emod {off : Int} (h : -256 ≤ off) (h' : off ≤ 255) : sext9 (off % 512).toNat = off := by
  unfold sext9
  split_ifs <;> omega

/-- The mask 0xF800 keeps the opcode field. -/
theorem and_F800 (w : Word) : w &&& 0xF800#16 = BitVec.ofNat 16 (w.toNat / 2 ^ 11 * 2 ^ 11) := by
  apply BitVec.eq_of_getLsbD_eq
  intro i hi
  simp only [BitVec.getLsbD_and, BitVec.getLsbD_ofNat, hi, decide_true, Bool.true_and, Nat.testBit_mul_two_pow,
    Nat.testBit_div_two_pow, BitVec.testBit_toNat]
  interval_cases i <;> simp <;> exact fun _ => rfl

/-- The mask 0xF803 keeps the opcode field and the selector. -/
theorem and_F803 (w : Word) :
    w &&& 0xF803#16 = BitVec.ofNat 16 (w.toNat / 2 ^ 11 * 2 ^ 11 + w.toNat % 2 ^ 2) := by
  apply BitVec.eq_of_getLsbD_eq
  intro i hi
  have e : w.toNat / 2 ^ 11 * 2 ^ 11 + w.toNat % 2 ^ 2 = 2 ^ 2 * (w.toNat / 2 ^ 11 * 2 ^ 9) + w.toNat % 2 ^ 2 := by
    omega
  rw [e]
  simp only [BitVec.getLsbD_and, BitVec.getLsbD_ofNat, hi, decide_true, Bool.true_and,
    Nat.testBit_two_pow_mul_add _ (Nat.mod_lt w.toNat (show 2 ^ 2 > 0 by decide)), Nat.testBit_mul_two_pow,
    Nat.testBit_div_two_pow, Nat.testBit_mod_two_pow, BitVec.testBit_toNat]
  interval_cases i <;> simp <;> exact fun _ => rfl

end Sys2Proof
end

