-- ==== Sys2Proof/Laws/PerInstr.lean ====
section
/-! SUPPORT. Family FixedBits: the encoding of every instruction carries the fixed bits of its row of
spec/opcode_table.json. -/

namespace Sys2Proof.Laws.FixedBits

/-- The encoding, under the row's mask, is the row's match. -/
def Statement (i : Instr) : Prop := encode i &&& i.tableMask = i.tableMatch

theorem group0 {rd rs rt sel : Nat} (h1 : rd < 8) (h2 : rs < 8) (h3 : rt < 8) (h4 : sel < 4) :
    packWord 0 rd rs rt sel &&& 0xF803#16 = BitVec.ofNat 16 sel := by
  rw [and_F803, toNat_packWord (by omega) h1 h2 h3 h4]
  exact congrArg (BitVec.ofNat 16) (by omega)

theorem jump {off : Int} {sel : Nat} (h : sel < 4) :
    packJump off sel &&& 0xF803#16 = BitVec.ofNat 16 (2048 + sel) := by
  rw [and_F803, toNat_packJump h]
  exact congrArg (BitVec.ofNat 16) (by omega)

theorem word {op rd rs rt sel : Nat} (h0 : op < 32) (h1 : rd < 8) (h2 : rs < 8) (h3 : rt < 8) (h4 : sel < 4) :
    packWord op rd rs rt sel &&& 0xF800#16 = BitVec.ofNat 16 (op * 2048) := by
  rw [and_F800, toNat_packWord h0 h1 h2 h3 h4]
  exact congrArg (BitVec.ofNat 16) (by omega)

theorem low5 {op hi rs lo : Nat} (h0 : op < 32) (h1 : hi < 8) (h2 : rs < 8) (h3 : lo < 32) :
    packLow5 op hi rs lo &&& 0xF800#16 = BitVec.ofNat 16 (op * 2048) := by
  rw [and_F800, toNat_packLow5 h0 h1 h2 h3]
  exact congrArg (BitVec.ofNat 16) (by omega)

theorem nop : Statement (.nop) := group0 (by decide) (by decide) (by decide) (by decide)
theorem psh (rt : Reg) : Statement (.psh rt) := group0 (by decide) (by decide) rt.isLt (by decide)
theorem pop (rd : Reg) : Statement (.pop rd) := group0 rd.isLt (by decide) (by decide) (by decide)
theorem cmp (rs : Reg) (rt : Reg) : Statement (.cmp rs rt) := group0 (by decide) rs.isLt rt.isLt (by decide)
theorem jmp (off : Int) : Statement (.jmp off) := jump (by decide)
theorem jeq (off : Int) : Statement (.jeq off) := jump (by decide)
theorem jlt (off : Int) : Statement (.jlt off) := jump (by decide)
theorem jgt (off : Int) : Statement (.jgt off) := jump (by decide)
theorem mov (rd : Reg) (rs : Reg) : Statement (.mov rd rs) := word (by decide) rd.isLt rs.isLt (by decide) (by decide)
theorem movi (rd : Reg) (imm : Word) : Statement (.movi rd imm) := by
  show BitVec.ofNat 16 _ &&& 0xF800#16 = 0x1800#16
  rw [and_F800, BitVec.toNat_ofNat]
  apply BitVec.eq_of_toNat_eq
  rw [BitVec.toNat_ofNat, BitVec.toNat_ofNat]
  omega
theorem str (rs : Reg) (rt : Reg) : Statement (.str rs rt) := word (by decide) (by decide) rs.isLt rt.isLt (by decide)
theorem stri (rs : Reg) (imm : Word) : Statement (.stri rs imm) := low5 (by decide) (Nat.mod_lt _ (by decide)) rs.isLt (Nat.mod_lt _ (by decide))
theorem ldr (rd : Reg) (rs : Reg) : Statement (.ldr rd rs) := word (by decide) rd.isLt rs.isLt (by decide) (by decide)
theorem add (rd : Reg) (rs : Reg) (rt : Reg) : Statement (.add rd rs rt) := word (by decide) rd.isLt rs.isLt rt.isLt (by decide)
theorem sub (rd : Reg) (rs : Reg) (rt : Reg) : Statement (.sub rd rs rt) := word (by decide) rd.isLt rs.isLt rt.isLt (by decide)
theorem mul (rd : Reg) (rs : Reg) (rt : Reg) : Statement (.mul rd rs rt) := word (by decide) rd.isLt rs.isLt rt.isLt (by decide)
theorem and (rd : Reg) (rs : Reg) (rt : Reg) : Statement (.and rd rs rt) := word (by decide) rd.isLt rs.isLt rt.isLt (by decide)
theorem or (rd : Reg) (rs : Reg) (rt : Reg) : Statement (.or rd rs rt) := word (by decide) rd.isLt rs.isLt rt.isLt (by decide)
theorem not (rd : Reg) (rs : Reg) : Statement (.not rd rs) := word (by decide) rd.isLt rs.isLt (by decide) (by decide)
theorem xor (rd : Reg) (rs : Reg) (rt : Reg) : Statement (.xor rd rs rt) := word (by decide) rd.isLt rs.isLt rt.isLt (by decide)
theorem shr (rd : Reg) (rs : Reg) (n : Nat) : Statement (.shr rd rs n) := low5 (by decide) rd.isLt rs.isLt (Nat.mod_lt _ (by decide))
theorem shl (rd : Reg) (rs : Reg) (n : Nat) : Statement (.shl rd rs n) := low5 (by decide) rd.isLt rs.isLt (Nat.mod_lt _ (by decide))
theorem ror (rd : Reg) (rs : Reg) : Statement (.ror rd rs) := word (by decide) rd.isLt rs.isLt (by decide) (by decide)
theorem rol (rd : Reg) (rs : Reg) : Statement (.rol rd rs) := word (by decide) rd.isLt rs.isLt (by decide) (by decide)
theorem halt : Statement (.halt) := word (by decide) (by decide) (by decide) (by decide) (by decide)
theorem unrecognized7 : Statement .unrecognized7 := by unfold Statement; decide
theorem unrecognized9 : Statement .unrecognized9 := by unfold Statement; decide
theorem unrecognized11 : Statement .unrecognized11 := by unfold Statement; decide
theorem unrecognized13 : Statement .unrecognized13 := by unfold Statement; decide
theorem unrecognized15 : Statement .unrecognized15 := by unfold Statement; decide
theorem unrecognized17 : Statement .unrecognized17 := by unfold Statement; decide
theorem unrecognized19 : Statement .unrecognized19 := by unfold Statement; decide
theorem unrecognized21 : Statement .unrecognized21 := by unfold Statement; decide
theorem unrecognized23 : Statement .unrecognized23 := by unfold Statement; decide
theorem unrecognized25 : Statement .unrecognized25 := by unfold Statement; decide
theorem unrecognized27 : Statement .unrecognized27 := by unfold Statement; decide
theorem unrecognized29 : Statement .unrecognized29 := by unfold Statement; decide
theorem unrecognized30 : Statement .unrecognized30 := by unfold Statement; decide

end Sys2Proof.Laws.FixedBits
end

