-- ==== Sys2Proof/Tests/Slice0.lean ====
section
/-! SUPPORT. Tests on values of spec/95_test_vectors.md, the ill-formed terms WellFormed refuses, and one named witness for the
hypotheses of each statement of Certificates/Slice0/Obligations.lean. -/

namespace Sys2Proof.Tests

open Sys2Proof Sys2Proof.Machine

/-! ### Helpers -/

/-- The reset state for STACK_BASE = 0x8200, the value the vectors are written with, and a sentinel that is never reached. -/
def blank : State := State.resetWith { stackBase := 0x8200, pcEnd := 0x10000 }

/-- `blank` with the listed registers and their values. -/
def withRegs (rs : List (Reg × Word)) : State := rs.foldl (fun s r => s.setReg r.1 r.2) blank

/-- Four flags in the order C Ov Z S of the vectors. -/
def flagsOf (c ov z s : Bool) : Flags := { c := c, ov := ov, z := z, s := s }

/-- `s` with the Stack Pointer that holds `k` words. -/
def holding (k : Nat) (s : State) : State := s.setSp (s.params.stackBase - BitVec.ofNat 16 (2 * k))

/-- The outcome is a next state that satisfies `p`. -/
def nextHas (o : Outcome) (p : State → Bool) : Bool :=
  match o with
  | .next t => p t
  | .fault _ => false
  | .refused _ => false

/-- From the Bool to the equation the statements have as hypotheses. -/
theorem next_with {o : Outcome} (P : State → Prop) [DecidablePred P] (h : nextHas o (fun t => decide (P t)) = true) :
    ∃ t, o = .next t ∧ P t := by
  cases o with
  | next t => exact ⟨t, rfl, of_decide_eq_true h⟩
  | fault r => cases h
  | refused r => cases h

theorem next_of {o : Outcome} (h : nextHas o (fun _ => true) = true) : ∃ t, o = .next t := by
  cases o with
  | next t => exact ⟨t, rfl⟩
  | fault r => cases h
  | refused r => cases h

/-- One step that fetches the word `w` at `pc`. -/
def stepWord (s : State) (w : Nat) (p : State → Bool) : Bool := nextHas (step (s.withFetchWord 16 w)) p

/-- The word `w` raises `c` and nothing but the run state differs from the state before. -/
def raises (s : State) (w : Nat) (c : FaultCause) : Bool :=
  stepWord s w (fun t => t = (s.withFetchWord 16 w).setRunState (.haltedFault c))

/-! ### WellFormed: an ill-formed term for each check, and the boundaries that pass -/

theorem test_wf_refuses_offset_above : ∀ i ∈ [Instr.jmp 256, .jeq 256, .jlt 256, .jgt 256], i.wellFormed = false := by decide
theorem test_wf_refuses_offset_below : ∀ i ∈ [Instr.jmp (-257), .jeq (-257), .jlt (-257), .jgt (-257)], i.wellFormed = false := by
  decide
theorem test_wf_refuses_immediate : ∀ i ∈ [Instr.movi 0 0x100, .movi 7 0xFFFF, .stri 0 0x100, .stri 7 0xFFFF],
    i.wellFormed = false := by decide
theorem test_wf_refuses_shift_amount : ∀ i ∈ [Instr.shr 0 0 32, .shl 0 0 32], i.wellFormed = false := by decide
theorem test_wf_accepts_boundaries : ∀ i ∈ [Instr.jmp 255, .jmp (-256), .jeq 255, .jeq (-256), .jlt 255, .jlt (-256), .jgt 255,
    .jgt (-256), .movi 7 0xFF, .movi 0 0, .stri 7 0xFF, .stri 0 0, .shr 7 7 31, .shr 0 0 0, .shl 7 7 31, .shl 0 0 0],
    i.wellFormed = true := by decide

/-! ### Decoding: the words of 95_test_vectors.md section 3.1, their bits split as opcode, rd, rs, rt, sel -/

theorem test_decode_nop : decode 0b00000_000_000_000_00 = .nop ∧ decode 0b00000_111_111_111_00 = .nop := by decide
theorem test_decode_psh : decode 0b00000_000_000_000_01 = .psh 0 ∧ decode 0b00000_000_000_111_01 = .psh 7 ∧
    decode 0b00000_111_111_000_01 = .psh 0 := by decide
theorem test_decode_pop : decode 0b00000_111_000_000_10 = .pop 7 ∧ decode 0b00000_000_111_111_10 = .pop 0 := by decide
theorem test_decode_cmp : decode 0b00000_000_000_001_11 = .cmp 0 1 ∧ decode 0b00000_000_111_111_11 = .cmp 7 7 := by decide
theorem test_decode_jmp : decode 0b00001_000000000_00 = .jmp 0 ∧ decode 0b00001_111111110_00 = .jmp (-2) := by decide
theorem test_decode_jeq : decode 0b00001_000000100_01 = .jeq 4 := by decide
theorem test_decode_jlt : decode 0b00001_011111111_10 = .jlt 255 := by decide
theorem test_decode_jgt : decode 0b00001_100000000_11 = .jgt (-256) ∧ decode 0b00001_111111010_11 = .jgt (-6) := by decide
theorem test_decode_mov : decode 0b00010_011_101_000_00 = .mov 3 5 ∧ decode 0b00010_101_111_111_11 = .mov 5 7 := by decide
theorem test_decode_movi : decode 0b00011_000_00000101 = .movi 0 5 ∧ decode 0b00011_001_00000011 = .movi 1 3 ∧
    decode 0b00011_111_11111111 = .movi 7 0xFF := by decide
theorem test_decode_str : decode 0b00100_000_000_001_00 = .str 0 1 ∧ decode 0b00100_111_111_111_11 = .str 7 7 := by decide
theorem test_decode_stri : decode 0b00101_000_000_00000 = .stri 0 0 ∧ decode 0b00101_111_010_00111 = .stri 2 0xE7 ∧
    decode 0b00101_111_111_11111 = .stri 7 0xFF := by decide
theorem test_decode_ldr : decode 0b00110_011_000_000_00 = .ldr 3 0 := by decide
theorem test_decode_add : decode 0b01000_010_000_001_00 = .add 2 0 1 := by decide
theorem test_decode_sub : decode 0b01010_000_000_010_00 = .sub 0 0 2 := by decide
theorem test_decode_mul : decode 0b01100_111_101_110_00 = .mul 7 5 6 := by decide
theorem test_decode_and : decode 0b01110_000_001_110_00 = .and 0 1 6 := by decide
theorem test_decode_or : decode 0b10000_001_001_000_00 = .or 1 1 0 := by decide
theorem test_decode_not : decode 0b10010_110_001_000_00 = .not 6 1 := by decide
theorem test_decode_xor : decode 0b10100_111_001_110_00 = .xor 7 1 6 := by decide
theorem test_decode_shr : decode 0b10110_100_001_00100 = .shr 4 1 4 ∧ decode 0b10110_111_111_11111 = .shr 7 7 31 := by decide
theorem test_decode_shl : decode 0b11000_001_000_01000 = .shl 1 0 8 ∧ decode 0b11000_101_001_10000 = .shl 5 1 16 := by decide
theorem test_decode_ror : decode 0b11010_010_001_00000 = .ror 2 1 ∧ decode 0b11010_010_001_11111 = .ror 2 1 := by decide
theorem test_decode_rol : decode 0b11100_011_001_00000 = .rol 3 1 := by decide
theorem test_decode_halt : decode 0b11111_000_000_000_00 = .halt ∧ decode 0b11111_111_111_111_11 = .halt := by decide
theorem test_decode_unrecognized : decode 0x3800 = .unrecognized7 ∧ decode 0x3FFF = .unrecognized7 ∧
    decode 0x4800 = .unrecognized9 ∧ decode 0x4FFF = .unrecognized9 ∧ decode 0x5800 = .unrecognized11 ∧
    decode 0x6800 = .unrecognized13 ∧ decode 0x7800 = .unrecognized15 ∧ decode 0x8800 = .unrecognized17 ∧
    decode 0x9800 = .unrecognized19 ∧ decode 0xA800 = .unrecognized21 ∧ decode 0xB800 = .unrecognized23 ∧
    decode 0xC800 = .unrecognized25 ∧ decode 0xD800 = .unrecognized27 ∧ decode 0xE800 = .unrecognized29 ∧
    decode 0xF000 = .unrecognized30 ∧ decode 0xF7FF = .unrecognized30 := by decide

/-- The encoder gives the canonical words of the same table. -/
theorem test_encode : encode (.movi 0 5) = 0x1805 ∧ encode (.add 2 0 1) = 0x4204 ∧ encode .halt = 0xF800 ∧
    encode (.psh 7) = 0x001D ∧ encode (.jmp (-2)) = 0x0FF8 ∧ encode (.stri 2 0xE7) = 0x2F47 ∧ encode (.shr 7 7 31) = 0xB7FF ∧
    encode (.jgt (-256)) = 0x0C03 ∧ encode (.pop 7) = 0x0702 ∧ encode (.cmp 0 1) = 0x0007 := by decide

theorem test_decodeTableWord : decodeTableWord 16 0x4204 = some (.add 2 0 1) ∧ decodeTableWord 16 0x3800 = some .unrecognized7 := by
  decide

/-! ### One step of each instruction (95_test_vectors.md sections 3.2 to 3.8) -/

/-- Z1. -/
theorem test_nop_advances : stepWord (blank.setPc 0x10) 0x0000 (fun t =>
    t = ((blank.setPc 0x10).withFetchWord 16 0x0000).setPc 0x12) = true := by decide
/-- C2: from reset, with the parameters of `State.reset`. -/
theorem test_nop_from_reset : stepWord State.reset 0x0000 (fun t => t.pc = 2) = true := by decide
/-- Z2. -/
theorem test_psh_first : stepWord (withRegs [(3, 0xAB)]) 0x000D (fun t =>
    t.stackRead 0 = 0xAB && t.sp = 0x81FE && t.reg 3 = 0xAB && t.pc = 2) = true := by decide
/-- Z6 and Z7. -/
theorem test_psh_eighth_and_ninth :
    stepWord (holding 7 (withRegs [(0, 0x11)])) 0x0001 (fun t => t.stackRead 7 = 0x11 && t.sp = 0x81F0) = true ∧
    raises (holding 8 (withRegs [(0, 0x11)])) 0x0001 .stackFault = true := by decide
/-- Z4. -/
theorem test_pop_second : stepWord (holding 2 (blank.stackWrite 1 0xE7)) 0x0502 (fun t =>
    t.reg 5 = 0xE7 && t.sp = 0x81FE && t.stackRead 1 = 0xE7) = true := by decide
/-- Z8 and Z9. -/
theorem test_pop_empty_and_full : raises blank 0x0102 .stackFault = true ∧
    stepWord (holding 8 (blank.stackWrite 7 0x1234)) 0x0102 (fun t => t.reg 1 = 0x1234 && t.sp = 0x81F2) = true := by decide
/-- Z10. -/
theorem test_cmp_keeps_c_and_ov : stepWord ((withRegs [(0, 5), (1, 5)]).setFlags (flagsOf true true false false)) 0x0007 (fun t =>
    t.flags = flagsOf true true true false) = true := by decide
/-- Z13, Z14: unsigned. -/
theorem test_cmp_unsigned :
    stepWord (withRegs [(0, 0x8000), (1, 0x7FFF)]) 0x0007 (fun t => t.flags = flagsOf false false false false) = true ∧
    stepWord (withRegs [(0, 1), (1, 0xFFFF)]) 0x0007 (fun t => t.flags = flagsOf false false false true) = true := by decide
/-- J1, J5, J6: the jump's own address is the base, and the target wraps. -/
theorem test_jmp : stepWord (blank.setPc 0x10) 0x0800 (fun t => t.pc = 0x10) = true ∧
    stepWord blank 0x0FF0 (fun t => t.pc = 0xFFFC) = true ∧ stepWord (blank.setPc 0xFFFE) 0x0810 (fun t => t.pc = 2) = true := by
  decide
/-- J7 to J10. -/
theorem test_jeq : ∀ r ∈ [(true, false, 0xA), (false, false, 8), (false, true, 8), (true, true, 8)],
    stepWord ((blank.setPc 6).setFlags (flagsOf false false r.1 r.2.1)) 0x0811 (fun t => t.pc = BitVec.ofNat 16 r.2.2) = true := by
  decide
/-- J11 to J14. -/
theorem test_jlt : ∀ r ∈ [(false, true, 0x11F), (false, false, 0x22), (true, false, 0x22), (true, true, 0x22)],
    stepWord ((blank.setPc 0x20).setFlags (flagsOf false false r.1 r.2.1)) 0x0BFE (fun t => t.pc = BitVec.ofNat 16 r.2.2) = true := by
  decide
/-- J15 to J18. -/
theorem test_jgt : ∀ r ∈ [(false, false, 0x100), (true, false, 0x202), (false, true, 0x202), (true, true, 0x202)],
    stepWord ((blank.setPc 0x200).setFlags (flagsOf false false r.1 r.2.1)) 0x0C03 (fun t => t.pc = BitVec.ofNat 16 r.2.2) = true := by
  decide
/-- M1. -/
theorem test_mov : stepWord (withRegs [(5, 0xBEEF)]) 0x13A0 (fun t => t.reg 3 = 0xBEEF && t.flags = blank.flags) = true := by decide
/-- M4. -/
theorem test_movi_zero_extends : stepWord blank 0x1FFF (fun t => t.reg 7 = 0x00FF) = true := by decide
/-- M5. -/
theorem test_movi_zero_keeps_z : stepWord blank 0x1800 (fun t => t.reg 0 = 0 && t.flags = blank.flags) = true := by decide
/-- M8. -/
theorem test_str_odd_address : stepWord (withRegs [(0, 3), (1, 0x1111)]) 0x2004 (fun t =>
    t.dataMem = [(3, 0x1111)] && t.dataRead 2 = 0 && t.dataRead 4 = 0) = true := by decide
/-- M7: the highest address, and separate from program memory. -/
theorem test_str_highest_address : stepWord (withRegs [(7, 0xFFFF)]) 0x27FC (fun t =>
    t.dataRead 0xFFFF = 0xFFFF && t.progMem = [(0, 0x27FC)]) = true := by decide
/-- M9. -/
theorem test_stri : stepWord (withRegs [(2, 0x41)]) 0x2F47 (fun t => t.dataMem = [(0x41, 0xE7)]) = true := by decide
/-- M11: storing 0 leaves nothing listed. -/
theorem test_stri_zero : stepWord (blank.setReg 0 0x40 |>.dataWrite 0x40 0xAB) 0x2800 (fun t => t.dataMem = []) = true := by decide
/-- M12, M13. -/
theorem test_ldr : stepWord ((withRegs [(0, 0x40)]).dataWrite 0x40 0xAB) 0x3300 (fun t => t.reg 3 = 0xAB) = true ∧
    stepWord (withRegs [(0, 0x1234)]) 0x3300 (fun t => t.reg 3 = 0) = true := by decide
/-- M14. -/
theorem test_ldr_into_its_address : stepWord ((withRegs [(0, 0x40)]).dataWrite 0x40 0x41) 0x3000 (fun t => t.reg 0 = 0x41) = true := by
  decide

/-- Result and flags of one ALU operation, as a row of section 3.5 lists them. -/
def aluRow (op : AluOp) (r : Word × Word × Word × Flags) : Bool :=
  aluResult op r.1 r.2.1 = r.2.2.1 && aluFlags op r.1 r.2.1 = r.2.2.2

/-- The ADD table. -/
theorem test_add_table : ∀ r ∈ [
    (0x0000, 0x0000, 0x0000, flagsOf false false true false), (0xFFFF, 0x0001, 0x0000, flagsOf true false true false),
    (0x8000, 0x8000, 0x0000, flagsOf true true true false), (0x7FFF, 0x0001, 0x8000, flagsOf false true false true),
    (0xFFFF, 0xFFFF, 0xFFFE, flagsOf true false false true), (0x7FFF, 0x7FFF, 0xFFFE, flagsOf false true false true),
    (0x8000, 0x0001, 0x8001, flagsOf false false false true), (0xFFFF, 0x0002, 0x0001, flagsOf true false false false),
    (0x7FFF, 0xFFFF, 0x7FFE, flagsOf true false false false), (0x8000, 0x7FFF, 0xFFFF, flagsOf false false false true)],
    aluRow .add r = true := by decide
/-- S1: `ADD R2,R0,R1` of 5 and 3. -/
theorem test_add_step : stepWord (withRegs [(0, 5), (1, 3)]) 0x4204 (fun t => t.reg 2 = 8 && t.flags = blank.flags) = true := by decide
/-- The SUB table. -/
theorem test_sub_table : ∀ r ∈ [
    (0x0000, 0x0000, 0x0000, flagsOf false false true false), (0xFFFF, 0x0001, 0xFFFE, flagsOf false false false true),
    (0x8000, 0x8000, 0x0000, flagsOf false false true false), (0x7FFF, 0x0001, 0x7FFE, flagsOf false false false false),
    (0x0001, 0x0002, 0xFFFF, flagsOf true false false true), (0x8000, 0x0001, 0x7FFF, flagsOf false true false false),
    (0x8000, 0x7FFF, 0x0001, flagsOf false true false false), (0x7FFF, 0xFFFF, 0x8000, flagsOf true true false true),
    (0x7FFF, 0x8000, 0xFFFF, flagsOf true true false true), (0x00FF, 0x0101, 0xFFFE, flagsOf true false false true)],
    aluRow .sub r = true := by decide
/-- P2: `SUB R0,R0,R2`, the first source is the minuend. -/
theorem test_sub_step : stepWord (withRegs [(0, 5), (2, 1)]) 0x5008 (fun t => t.reg 0 = 4 && t.flags = blank.flags) = true := by decide
/-- The MUL table. -/
theorem test_mul_table : ∀ r ∈ [
    (0x0000, 0x0000, 0x0000, flagsOf false false true false), (0xFFFF, 0x0001, 0xFFFF, flagsOf false false false true),
    (0x8000, 0x8000, 0x0000, flagsOf true true true false), (0x7FFF, 0x0001, 0x7FFF, flagsOf false false false false),
    (0xFFFF, 0xFFFF, 0x0001, flagsOf true true false false), (0x0100, 0x0100, 0x0000, flagsOf true false true false),
    (0x7FFF, 0x7FFF, 0x0001, flagsOf true false false false), (0x00FF, 0x0101, 0xFFFF, flagsOf false true false true),
    (0x4000, 0x0002, 0x8000, flagsOf false true false true), (0xFFFF, 0x0002, 0xFFFE, flagsOf true false false true),
    (0x8000, 0x7FFF, 0x8000, flagsOf true false false true), (0x7FFF, 0xFFFF, 0x8001, flagsOf true false false true)],
    aluRow .mul r = true := by decide
/-- P3: `MUL R7,R5,R6`. -/
theorem test_mul_step : stepWord (withRegs [(5, 0xE7), (6, 0xAB)]) 0x67B8 (fun t =>
    t.reg 7 = 0x9A4D && t.flags = flagsOf false true false true) = true := by decide
/-- The logic table, AND, OR, XOR. -/
theorem test_logic_table :
    aluRow .and (0xF0F0, 0x0FF0, 0x00F0, flagsOf false false false false) = true ∧
    aluRow .and (0x8000, 0x8000, 0x8000, flagsOf false false false true) = true ∧
    aluRow .and (0x8181, 0x7E7E, 0x0000, flagsOf false false true false) = true ∧
    aluRow .or (0xF0F0, 0x0FF0, 0xFFF0, flagsOf false false false true) = true ∧
    aluRow .or (0x0000, 0x0000, 0x0000, flagsOf false false true false) = true ∧
    aluRow .xor (0xF0F0, 0x0FF0, 0xFF00, flagsOf false false false true) = true ∧
    aluRow .xor (0x8181, 0x7E7E, 0xFFFF, flagsOf false false false true) = true := by decide
/-- Carry clearing: `AND R0,R0,R0` with C and Ov set before. -/
theorem test_and_clears_carry : stepWord ((withRegs [(0, 0x00F0)]).setFlags (flagsOf true true true true)) 0x7000 (fun t =>
    t.reg 0 = 0xF0 && t.flags = flagsOf false false false false) = true := by decide
/-- P7: `OR R1,R1,R0`. -/
theorem test_or_step : stepWord (withRegs [(0, 0x81), (1, 0x8100)]) 0x8120 (fun t =>
    t.reg 1 = 0x8181 && t.flags = flagsOf false false false true) = true := by decide
/-- P7: `NOT R6,R1`. -/
theorem test_not_step : stepWord ((withRegs [(1, 0x8181)]).setFlags (flagsOf true true false true)) 0x9620 (fun t =>
    t.reg 6 = 0x7E7E && t.flags = flagsOf false false false false) = true := by decide
/-- P7: `XOR R7,R1,R6`. -/
theorem test_xor_step : stepWord (withRegs [(1, 0x8181), (6, 0x7E7E)]) 0xA738 (fun t =>
    t.reg 7 = 0xFFFF && t.flags = flagsOf false false false true) = true := by decide
/-- The SHR row of 8181, shift amounts 0, 1, 4, 8, 15, 16, 17, 31. -/
theorem test_shr_row : [0, 1, 4, 8, 15, 16, 17, 31].map (shiftRight 0x8181) =
    [0x8181, 0x40C0, 0x0818, 0x0081, 0x0001, 0, 0, 0] := by decide
/-- P7: `SHR R4,R1,#4`. -/
theorem test_shr_step : stepWord (withRegs [(1, 0x8181)]) 0xB424 (fun t => t.reg 4 = 0x0818 && t.flags = blank.flags) = true := by
  decide
/-- The SHL row of 8181. -/
theorem test_shl_row : [0, 1, 4, 8, 15, 16, 17, 31].map (shiftLeft 0x8181) =
    [0x8181, 0x0302, 0x1810, 0x8100, 0x8000, 0, 0, 0] := by decide
/-- The flag vector of section 3.6: a zero result leaves Z = 0 and S = 1. -/
theorem test_shl_keeps_flags : stepWord ((withRegs [(1, 0x8181), (5, 1)]).setFlags (flagsOf false false false true)) 0xC530 (fun t =>
    t.reg 5 = 0 && t.flags = flagsOf false false false true) = true := by decide
theorem test_ror_step : stepWord (withRegs [(1, 0x8181)]) 0xD220 (fun t => t.reg 2 = 0xC0C0 && t.flags = blank.flags) = true ∧
    rotateRight 1 = 0x8000 := by decide
theorem test_rol_step : stepWord (withRegs [(1, 0x8181)]) 0xE320 (fun t => t.reg 3 = 0x0303 && t.flags = blank.flags) = true ∧
    rotateLeft 0x8000 = 1 := by decide
/-- H1, H3. -/
theorem test_halt : stepWord (blank.setPc 6) 0xF800 (fun t =>
      t = (((blank.setPc 6).withFetchWord 16 0xF800).setPc 8).setRunState .haltedNormal) = true ∧
    stepWord (blank.setPc 0xFFFE) 0xF800 (fun t => t.pc = 0 && t.runState = .haltedNormal) = true := by decide
/-- E1 (P5), for the first word of each unassigned opcode. -/
theorem test_unrecognized_low : ∀ w ∈ [0x3800, 0x4800, 0x5800, 0x6800, 0x7800, 0x8800],
    raises blank w .unrecognizedOpcode = true := by decide
theorem test_unrecognized_high : ∀ w ∈ [0x9800, 0xA800, 0xB800, 0xC800, 0xD800, 0xE800, 0xF000],
    raises blank w .unrecognizedOpcode = true := by decide
/-- E3, E4: at the sentinel nothing is fetched, so an unassigned word there does not fault. -/
theorem test_sentinel :
    nextHas (step ((State.boot { stackBase := 0x8200, pcEnd := 2 } [(2, 0x3800)]).setPc 2))
      (fun t => t.pc = 2 && t.runState = .haltedNormal) = true ∧
    nextHas (step (State.resetWith { stackBase := 0x8200, pcEnd := 0 })) (fun t => t.pc = 0 && t.runState = .haltedNormal) = true := by
  decide
/-- E5: with PC_END = 0x10000 blank memory runs on, and `pc` wraps. -/
theorem test_pc_wraps : nextHas (step (blank.setPc 0xFFFE)) (fun t => t.pc = 0 && t.runState = .running) = true := by decide
/-- L1, L2. -/
theorem test_load_port : (blank.loadImage [(0, 0x1805), (0, 0x1807), (3, 0x1877)]).progMem = [(0, 0x1807), (3, 0x1877)] := by decide
/-- The canonical form takes rising addresses below 0x10000 with no zero word, and nothing else. -/
theorem test_memory_canonical : Memory.wf [(0, 1), (1, 2), (0xFFFF, 3)] = true ∧ Memory.wf [(1, 1), (1, 2)] = false ∧
    Memory.wf [(2, 1), (1, 2)] = false ∧ Memory.wf [(1, 0)] = false ∧ Memory.wf [(0x10000, 1)] = false := by decide
/-- The report lists the nonzero data slots, and is there only after the run. -/
theorem test_observe : blank.observe = none ∧
    (((blank.dataWrite 5 7).setRunState .haltedNormal).observe).map Report.data = some [(5, 7)] := by decide

/-! ### Witnesses: states and operands that meet the hypotheses of the statements, clause by clause -/

/-- Every well-formed form at the ends of its fields. -/
theorem witness_DecodeOfEncode : ∀ i ∈ [Instr.nop, .psh 7, .pop 0, .cmp 7 0, .jmp 255, .jeq (-256), .jlt 0, .jgt (-1), .mov 7 7,
    .movi 7 0xFF, .str 0 7, .stri 7 0xFF, .ldr 7 0, .add 7 0 7, .sub 0 7 0, .mul 7 7 7, .and 0 0 0, .or 1 2 3, .not 7 7,
    .xor 4 5 6, .shr 7 7 31, .shl 0 0 0, .ror 7 0, .rol 0 7, .halt, .unrecognized7, .unrecognized30],
    i.wellFormed = true := by decide
theorem witness_DecodeReadsOnlyUsedBits :
    (0x0000 : Word) &&& (decode 0x07FC).usedBits = (0x07FC : Word) &&& (decode 0x07FC).usedBits ∧
    (0xF800 : Word) &&& (decode 0xFFFF).usedBits = (0xFFFF : Word) &&& (decode 0xFFFF).usedBits := by decide
theorem witness_EveryWordMatchesOneTableRow : (0x3FFF : Word) &&& Instr.unrecognized7.tableMask = Instr.unrecognized7.tableMatch ∧
    (0x07FC : Word) &&& Instr.nop.tableMask = Instr.nop.tableMatch := by decide

/-- The highest `pc` below the highest sentinel, and the `pc` just below a sentinel. -/
theorem witness_StepRunsFetchedInstruction_runs :
    ((blank.setPc 0xFFFF).runState = .running ∧ (blank.setPc 0xFFFF).pc.toNat < blank.params.pcEnd) ∧
    ((State.resetWith { stackBase := 0x8200, pcEnd := 1 }).runState = .running ∧
      (State.resetWith { stackBase := 0x8200, pcEnd := 1 }).pc.toNat < 1) := by decide
theorem witness_StepRunsFetchedInstruction_stops :
    (blank.setRunState (.haltedFault .stackFault)).runState ≠ .running ∧
    ((State.resetWith { stackBase := 16, pcEnd := 7 }).setPc 7).params.pcEnd ≤
      ((State.resetWith { stackBase := 16, pcEnd := 7 }).setPc 7).pc.toNat := by decide

theorem witness_SentinelHaltsWithoutFetch_at_sentinel :
    ((State.resetWith { stackBase := 0x8200, pcEnd := 2 }).setPc 2).runState = .running ∧
    ((State.resetWith { stackBase := 0x8200, pcEnd := 2 }).setPc 2).params.pcEnd ≤
      ((State.resetWith { stackBase := 0x8200, pcEnd := 2 }).setPc 2).pc.toNat := by decide
theorem witness_SentinelHaltsWithoutFetch_never : (blank.setPc 0xFFFE).runState = .running ∧
    (blank.setPc 0xFFFE).params.pcEnd = 0x10000 ∧ (blank.setPc 0xFFFE).pc = 0xFFFE ∧
    (blank.setPc 0xFFFE).progRead (blank.setPc 0xFFFE).pc = 0 := by decide
theorem witness_SentinelHaltsWithoutFetch_zero :
    (State.resetWith { stackBase := 0x8200, pcEnd := 0 }).runState = .running ∧
    (State.resetWith { stackBase := 0x8200, pcEnd := 0 }).params.pcEnd = 0 := by decide
/-- Two NOPs up to an odd sentinel, 3: the halt is at 4. -/
theorem witness_SentinelHaltsWithoutFetch_blank :
    (∀ j, j < 2 → (0 : Word).toNat + 2 * j < 3 ∧
      (State.resetWith { stackBase := 0x8200, pcEnd := 3 }).progRead (BitVec.ofNat 16 ((0 : Word).toNat + 2 * j)) = 0) ∧
    3 ≤ (0 : Word).toNat + 2 * 2 ∧ (0 : Word).toNat + 2 * 2 ≤ 0xFFFF := by decide

theorem witness_HaltedStatesAreTerminal : (blank.setRunState .haltedNormal).runState ≠ .running ∧
    (blank.setRunState (.haltedFault .unrecognizedOpcode)).runState ≠ .running := by decide

/-- A step into each run state. -/
theorem witness_RunStateTransitions :
    (∀ w ∈ [0xF800, 0x3800, 0x0001, 0x0002, 0x0000], ((holding 8 blank).withFetchWord 16 w).runState = .running ∧
      (blank.withFetchWord 16 w).runState = .running) ∧
    stepWord blank 0xF800 (fun t => t.runState = .haltedNormal) = true ∧
    stepWord blank 0x3800 (fun t => t.runState = .haltedFault .unrecognizedOpcode) = true ∧
    stepWord (holding 8 blank) 0x0001 (fun t => t.runState = .haltedFault .stackFault) = true ∧
    stepWord blank 0x0002 (fun t => t.runState = .haltedFault .stackFault) = true ∧
    stepWord blank 0x0000 (fun t => t.runState = .running) = true := by decide
theorem witness_FaultsArePrecise :
    ((blank.withFetchWord 16 0x3800).runState = .running ∧ (blank.withFetchWord 16 0x0002).runState = .running) ∧
    (∃ t, step (blank.withFetchWord 16 0x3800) = .next t ∧ t.runState = .haltedFault .unrecognizedOpcode) ∧
    (∃ t, step (blank.withFetchWord 16 0x0002) = .next t ∧ t.runState = .haltedFault .stackFault) :=
  ⟨by decide, next_with _ (by decide), next_with _ (by decide)⟩
theorem witness_UnrecognizedRaisesUnrecognizedOpcode :
    Instr.unrecognized7.unrecognizedOpcode? = some 7 ∧ Instr.unrecognized30.unrecognizedOpcode? = some 30 ∧
    (blank.load 0 0x3800).runState = .running ∧ (blank.load 0 0x3800).pc.toNat < (blank.load 0 0x3800).params.pcEnd ∧
    (blank.load 0 0x3800).progRead (blank.load 0 0x3800).pc = 0x3800 := by decide

/-- Full and empty for the lowest base rule R7 allows, 16, and the highest. -/
theorem witness_StackFaultOnFullOrEmptyStack_bounds : 
    (holding 8 (State.resetWith { stackBase := 16, pcEnd := 0 })).sp = 0 ∧
    (holding 0 (State.resetWith { stackBase := 16, pcEnd := 0 })).sp = 16 ∧
    (holding 8 (State.resetWith { stackBase := 0xFFFF, pcEnd := 0 })).sp = 0xFFEF ∧
    (holding 0 (State.resetWith { stackBase := 0xFFFF, pcEnd := 0 })).sp = 0xFFFF := by decide
theorem witness_StackFaultOnFullOrEmptyStack_raised :
    ((holding 8 blank).runState = .running ∧ blank.runState = .running) ∧
    (∃ t, exec (.psh 7) (holding 8 blank) = .next t ∧ t.runState = .haltedFault .stackFault) ∧
    (∃ t, exec (.pop 0) blank = .next t ∧ t.runState = .haltedFault .stackFault) :=
  ⟨by decide, next_with _ (by decide), next_with _ (by decide)⟩
theorem witness_StackFaultOnFullOrEmptyStack_run : (blank.setRunState (.haltedFault .stackFault)).runState = .haltedFault .stackFault ∧
    blank.runState = .running ∧ blank.params.valid ∧ blank.hasDepth 0 := by decide

/-- Depths 0 and 7, the lowest and the highest base. -/
theorem witness_PshStoresInNextSlot : ∀ k ∈ [0, 7],
    ((holding k (State.resetWith { stackBase := 16, pcEnd := 0x10000 })).params.valid ∧
      (holding k (State.resetWith { stackBase := 16, pcEnd := 0x10000 })).hasDepth k) ∧
    (holding k (State.resetWith { stackBase := 0xFFFF, pcEnd := 0 })).params.valid ∧
      (holding k (State.resetWith { stackBase := 0xFFFF, pcEnd := 0 })).hasDepth k := by decide
/-- Depths 1 and 8, the lowest and the highest base. -/
theorem witness_PopLoadsFromTopSlot : ∀ k ∈ [1, 8],
    ((holding k (State.resetWith { stackBase := 16, pcEnd := 0x10000 })).params.valid ∧
      (holding k (State.resetWith { stackBase := 16, pcEnd := 0x10000 })).hasDepth k) ∧
    (holding k (State.resetWith { stackBase := 0xFFFF, pcEnd := 0 })).params.valid ∧
      (holding k (State.resetWith { stackBase := 0xFFFF, pcEnd := 0 })).hasDepth k := by decide

theorem witness_StoresWriteOneDataSlot : blank.effectiveAddress 7 = 0 ∧ (withRegs [(7, 0xFFFF)]).effectiveAddress 7 = 0xFFFF := by decide
theorem witness_DataAccessesNeedNoAlignment : blank.reg 7 = 0 ∧ (withRegs [(7, 1)]).reg 7 = 1 ∧
    (withRegs [(7, 0xFFFF)]).reg 7 = 0xFFFF := by decide
theorem witness_LogicResultsAndFlags : (withRegs [(0, 0xF0F0), (1, 0x0FF0)]).reg 0 = 0xF0F0 ∧
    Instr.not 2 0 ∈ [Instr.and 2 0 1, .or 2 0 1, .xor 2 0 1, .not 2 0] := by decide
theorem witness_AluIsPureFunctionOfOperands :
    Instr.mul 2 0 1 ∈ [Instr.add 2 0 1, .sub 2 0 1, .mul 2 0 1, .and 2 0 1, .or 2 0 1, .not 2 0, .xor 2 0 1] ∧
    ((withRegs [(0, 9), (1, 8), (2, 7)]).setFlags (flagsOf true true true true)).reg 0 = (withRegs [(0, 9), (1, 8)]).reg 0 ∧
    ((withRegs [(0, 9), (1, 8), (2, 7)]).setFlags (flagsOf true true true true)).reg 1 = (withRegs [(0, 9), (1, 8)]).reg 1 := by
  decide
/-- The shift amounts where the clause on 16 and above begins and ends, and a bit number at the end of its range. -/
theorem witness_ShiftsAreLogical : (∀ n ∈ [16, 31], 16 ≤ n) ∧ 15 < 16 := by decide
/-- The two end bits, which the rotations carry around. -/
theorem witness_RotatesMoveBitsByOne : (0 < 16 ∧ (0 + 1) % 16 = 1) ∧ (15 < 16 ∧ (15 + 1) % 16 = 0) := by decide

/-- An instruction with a destination register, one of whose other registers is looked at, and one without. -/
theorem witness_OnlyDestinationRegisterChanges :
    ((∃ t, exec (.add 7 0 1) (withRegs [(0, 5)]) = .next t) ∧ (Instr.add 7 0 1).destReg? ≠ some 0) ∧
    ((∃ t, exec (.str 0 7) (withRegs [(0, 5)]) = .next t) ∧ (Instr.str 0 7).destReg? ≠ some 7) :=
  ⟨⟨next_of (by decide), by decide⟩, ⟨next_of (by decide), by decide⟩⟩
/-- One instruction of each of the three kinds: all four flags, Z and S, none. -/
theorem witness_FlagWritersTable : (∃ t, exec (.mul 0 1 2) blank = .next t) ∧ (∃ t, exec (.cmp 0 1) blank = .next t) ∧
    (∃ t, exec (.rol 0 1) blank = .next t) :=
  ⟨next_of (by decide), next_of (by decide), next_of (by decide)⟩
theorem witness_DataMemoryReach_instructions :
    (∃ t, exec (.psh 3) ((holding 7 blank).dataWrite 0 7) = .next t) ∧ (∀ rd rs, Instr.psh 3 ≠ .ldr rd rs) ∧
    (∀ rs rt, Instr.psh 3 ≠ .str rs rt) ∧ ∀ rs imm, Instr.psh 3 ≠ .stri rs imm :=
  ⟨next_of (by decide), fun _ _ => nofun, fun _ _ => nofun, fun _ _ => nofun⟩
/-- The statement has no hypothesis on the stores and the load: both ends of the address space. -/
theorem witness_DataMemoryReach_addresses : blank.effectiveAddress 7 = 0 ∧
    (withRegs [(7, 0xFFFF)]).effectiveAddress 7 = 0xFFFF := by decide
theorem witness_DataMemoryReach_report : (0xFFFF : Word) ≠ 0 ∧
    ((blank.dataWrite 0xFFFF 7).setRunState .haltedNormal).dataMem.wf = true ∧
    (((blank.dataWrite 0xFFFF 7).setRunState .haltedNormal).observe).isSome = true := by decide
theorem witness_StackSlotsReach_instructions :
    ((∃ t, exec (.pop 3) (holding 8 blank) = .next t) ∧ ∀ rt, Instr.pop 3 ≠ .psh rt) ∧
    ((∃ t, exec (.psh 3) (holding 7 blank) = .next t) ∧ (∀ rd, Instr.psh 3 ≠ .pop rd) ∧
      ((∃ rt, Instr.psh 3 = .psh rt) ∨ ∃ rd, Instr.psh 3 = .pop rd)) :=
  ⟨⟨next_of (by decide), fun _ => nofun⟩, ⟨next_of (by decide), fun _ => nofun, .inl ⟨3, rfl⟩⟩⟩
theorem witness_StackSlotsReach_report : ((blank.setRunState (.haltedFault .stackFault)).observe).isSome = true := by decide
theorem witness_NoInstructionReachesProgramMemory : ∃ t, exec (.str 0 1) (blank.load 0 0x2004) = .next t := next_of (by decide)
theorem witness_ProgramMemoryIsConstant : ∃ t, runFor 2 (blank.loadImage [(0, 0x2004), (2, 0xF800)]) = .next t ∧
    t.runState = .haltedNormal :=
  next_with _ (by decide)
theorem witness_LinkRegisterIsInert : (∃ t, exec (.psh 0) (holding 7 blank) = .next t) ∧
    (∃ t, runFor 1 (State.boot { stackBase := 16, pcEnd := 0x10000 } [(0, 0xF800)]) = .next t ∧ t.runState = .haltedNormal) ∧
    ((blank.setRunState .haltedNormal).observe).isSome = true :=
  ⟨next_of (by decide), next_with _ (by decide), rfl⟩
theorem witness_StackPointerChangesOnlyByPshAndPop :
    (∃ t, exec (.psh 0) (holding 7 blank) = .next t ∧ t.sp ≠ (holding 7 blank).sp) ∧
    (∃ t, exec (.pop 0) (holding 8 blank) = .next t ∧ t.sp ≠ (holding 8 blank).sp) ∧
    (holding 8 blank).params.valid ∧ (holding 8 blank).spInWindow ∧ 16 ≤ (16 : Word).toNat :=
  ⟨next_with _ (by decide), next_with _ (by decide), by decide, ⟨8, by decide⟩, by decide⟩
theorem witness_CarryAndOverflowAreNotRead : ∃ t, exec (.jlt (-256)) (blank.setFlags (flagsOf true true false true)) = .next t :=
  next_of (by decide)
theorem witness_RunStateIsNotReadable : (∃ t, exec .halt blank = .next t) ∧ ∃ t, exec (.pop 0) blank = .next t :=
  ⟨next_of (by decide), next_of (by decide)⟩
/-- A raised fault, a taken jump, and another instruction at the highest `pc`. -/
theorem witness_PcCommitRule : (∃ t, exec .unrecognized7 blank = .next t) ∧ (∃ t, exec (.jmp (-256)) blank = .next t) ∧
    ∃ t, exec .nop (blank.setPc 0xFFFF) = .next t :=
  ⟨next_of (by decide), next_of (by decide), next_of (by decide)⟩
/-- Operands whose signed sum, and difference, fall outside the range by one. -/
theorem witness_AddSubOverflowIsSignedOverflow :
    (∃ t, exec (.add 2 0 1) (withRegs [(0, 0x7FFF), (1, 1)]) = .next t) ∧
    ∃ t, exec (.sub 2 0 1) (withRegs [(0, 0x8000), (1, 1)]) = .next t :=
  ⟨next_of (by decide), next_of (by decide)⟩
theorem witness_ConditionalJumpsAfterCmp : (∃ t, exec (.cmp 0 1) (withRegs [(0, 5), (1, 5)]) = .next t) ∧
    ∃ t, exec (.cmp 0 1) (withRegs [(0, 0x8000), (1, 0x7FFF)]) = .next t :=
  ⟨next_of (by decide), next_of (by decide)⟩

/-- A state in the middle of a run: registers, memories, flags and a full stack, for the lowest base. -/
def busy : State :=
  (holding 8 (State.resetWith { stackBase := 16, pcEnd := 0x10000 })).setReg 7 0xFFFF
    |>.setFlags (flagsOf true true false true)
    |>.dataWrite 0xFFFF 7 |>.load 0x0002 0xF800 |>.setPc 0xFFFF |>.stackWrite 7 0xAB

/-- `busy` meets the invariant. -/
theorem witness_Inv : busy.Inv :=
  ⟨by decide, ⟨8, by decide⟩, by decide, by decide, by decide, by decide⟩
/-- The invariant with no word on the stack, Z set, a halted run and PC_END = 0. -/
theorem witness_Inv_empty_stack :
    (((State.resetWith { stackBase := 0xFFFF, pcEnd := 0 }).setFlags (flagsOf false false true false)).setRunState .haltedNormal).Inv :=
  ⟨by decide, ⟨0, by decide⟩, by decide, by decide, by decide, by decide⟩

theorem witness_ExactlyOneConditionalJumpTaken : busy.Inv ∧ Instr.jlt ∈ [Instr.jeq, .jlt, .jgt] := ⟨witness_Inv, by simp⟩
/-- A value whose two end bits are carried around. -/
theorem witness_RotationsUndoEachOther : (withRegs [(7, 0x8181)]).reg 7 = 0x8181 := by decide
theorem witness_StoreThenLoad : ∃ t, exec (.str 0 1) (withRegs [(0, 0xFFFF), (1, 0x5A5A)]) = .next t := next_of (by decide)
/-- No word and seven words held, with room for eight and for one. -/
theorem witness_StackIsLifo : ∀ c ∈ [(0, [1, 2, 3, 4, 5, 6, 7, 0]), (7, [3])], (holding c.1 blank).runState = .running ∧
    (holding c.1 blank).params.valid ∧ (holding c.1 blank).hasDepth c.1 ∧ c.1 + (c.2 : List Reg).length ≤ 8 := by decide
theorem witness_ReportAfterTheRun : blank.observe = none ∧ ((blank.setRunState .haltedNormal).observe).isSome = true := by decide
theorem witness_InvariantHoldsAtBoot : Params.valid { stackBase := 16, pcEnd := 0 } ∧
    Params.valid { stackBase := 0xFFFF, pcEnd := 0x10000 } := by decide
theorem witness_EveryInstructionCompletesAndKeepsInvariant : busy.Inv ∧ (∃ t, exec (.pop 7) busy = .next t) :=
  ⟨witness_Inv, next_of (by decide)⟩
theorem witness_StepKeepsInvariant : busy.Inv ∧ ∃ t, step busy = .next t ∧ t.runState = .running :=
  ⟨witness_Inv, next_with _ (by decide)⟩
theorem witness_EveryBootedRunStaysInInvariant : Params.valid { stackBase := 16, pcEnd := 1 } := by decide
theorem witness_StackBaseIsUnobservable : busy.Inv ∧ 16 ≤ (16 : Word).toNat ∧ ∃ t, runFor 1 busy = .next t :=
  ⟨witness_Inv, by decide, next_of (by decide)⟩

end Sys2Proof.Tests
end

section
/-! The stack slots, the Link Register and the Stack Pointer over the whole instruction set (10_state.md rules R14, R15, R23).

What an instruction neither reads nor writes is said once, by `Blind`: moving those fields over from another state makes no
difference to it.
One statement gives the frame (move them from the state before) and the noninterference (move them from anywhere).
It is proved for PSH and POP and for all other instructions together; what PSH and POP do with `sp` and the slots is said by
`exec_psh_eq_next_iff` and `exec_pop_eq_next_iff`. -/

namespace Sys2Proof.Machine

/-! ### PSH and POP: when they answer a next state, and which -/

/-- Rules R38 and R71: whether the stack is full or has a slot is decided by `sp` and the parameters alone. -/
theorem exec_psh_eq_next_iff {rt : Reg} {s t : State} :
    exec (.psh rt) s = .next t ↔
      (s.stackFull = true ∧ t = s.raise .stackFault) ∨
      ∃ k, s.stackFull = false ∧ slotOf s.params.stackBase (s.sp - 2#16) = some k ∧
        t = ((s.stackWrite k (s.reg rt)).setSp (s.sp - 2#16)).advance := by
  change execPsh rt s = .next t ↔ _
  unfold execPsh State.push
  cases hf : s.stackFull with
  | true => simp [eq_comm]
  | false => cases hk : slotOf s.params.stackBase (s.sp - 2#16) <;> simp [eq_comm]

/-- Rules R39 and R72: whether the stack is empty or has a slot is decided by `sp` and the parameters alone. -/
theorem exec_pop_eq_next_iff {rd : Reg} {s t : State} :
    exec (.pop rd) s = .next t ↔
      (s.stackEmpty = true ∧ t = s.raise .stackFault) ∨
      ∃ k, s.stackEmpty = false ∧ slotOf s.params.stackBase s.sp = some k ∧
        t = (s.setSp (s.sp + 2#16)).writeBack rd (s.stackRead k) := by
  change execPop rd s = .next t ↔ _
  unfold execPop State.pop
  cases he : s.stackEmpty with
  | true => simp [eq_comm]
  | false => cases hk : slotOf s.params.stackBase s.sp <;> simp [eq_comm]

/-- The instruction is PSH or POP, which alone reach the stack (rule R30). -/
def usesStack : Instr → Bool
  | .psh _ | .pop _ => true
  | _ => false

theorem psh_or_pop_or_not_usesStack (i : Instr) :
    ((∃ rt, i = .psh rt) ∨ ∃ rd, i = .pop rd) ∨ usesStack i = false := by
  cases i with
  | psh rt => exact .inl (.inl ⟨rt, rfl⟩)
  | pop rd => exact .inl (.inr ⟨rd, rfl⟩)
  | _ => exact .inr rfl

/-! ### Fields an instruction is blind to -/

/-- The instruction neither reads nor writes the fields that `move s h` takes from `h`, all others being those of `s`. -/
structure Blind (i : Instr) (move : State → State → State) : Prop where
  move_self : ∀ s, move s s = s
  exec_move : ∀ {s t} (h : State), exec i s = .next t → exec i (move s h) = .next (move t h)

/-- The frame: the fields moved from the state before are those of the state after. -/
theorem Blind.move_before {i : Instr} {move : State → State → State} (hi : Blind i move) {s t : State}
    (h : exec i s = .next t) : move t s = t := by
  have h' := hi.exec_move s h
  rw [hi.move_self, h] at h'
  exact (Host.Outcome.next.inj h').symm

/-- An update `g` of nothing but the moved fields commutes with the instruction. -/
theorem Blind.exec_update {i : Instr} {move : State → State → State} (hi : Blind i move) {s t : State}
    (h : exec i s = .next t) (g : State → State) (hg : ∀ u, move u (g s) = g (move u s)) :
    exec i (g s) = .next (g t) := by
  have h' := hi.exec_move (g s) h
  rwa [hg, hg, hi.move_self, hi.move_before h] at h'

/-- `s` with the fields of `h` that no instruction but PSH and POP reaches. -/
def State.moveOutsideStack (s h : State) : State :=
  { s with lr := h.lr, sp := h.sp, progMem := h.progMem, stack := h.stack, params := h.params }

/-- `s` with the fields of `h` that PSH and POP do not reach: `lr` and the two memories (rules R14, R23). -/
def State.moveMemories (s h : State) : State :=
  { s with lr := h.lr, progMem := h.progMem, dataMem := h.dataMem }

theorem jumpIf_moveOutsideStack (s h : State) (b : Bool) (off : Int) :
    (s.moveOutsideStack h).jumpIf b off = (s.jumpIf b off).moveOutsideStack h := by
  cases b <;> rfl

theorem blind_of_not_usesStack {i : Instr} (hi : usesStack i = false) : Blind i State.moveOutsideStack where
  move_self _ := rfl
  exec_move {s t} h e := by
    cases i with
    | psh rt | pop rd => cases hi
    | jmp off | jeq off | jlt off | jgt off => cases e; exact congrArg _ (jumpIf_moveOutsideStack s h _ off)
    | _ => cases e; rfl

theorem blind_psh (rt : Reg) : Blind (.psh rt) State.moveMemories where
  move_self _ := rfl
  exec_move h e := by
    rw [exec_psh_eq_next_iff] at e ⊢
    obtain ⟨hf, rfl⟩ | ⟨k, hf, hk, rfl⟩ := e
    · exact .inl ⟨hf, rfl⟩
    · exact .inr ⟨k, hf, hk, rfl⟩

theorem blind_pop (rd : Reg) : Blind (.pop rd) State.moveMemories where
  move_self _ := rfl
  exec_move h e := by
    rw [exec_pop_eq_next_iff] at e ⊢
    obtain ⟨he, rfl⟩ | ⟨k, he, hk, rfl⟩ := e
    · exact .inl ⟨he, rfl⟩
    · exact .inr ⟨k, he, hk, rfl⟩

theorem blind_of_psh_or_pop {i : Instr} (hi : (∃ rt, i = .psh rt) ∨ ∃ rd, i = .pop rd) : Blind i State.moveMemories := by
  obtain ⟨rt, rfl⟩ | ⟨rd, rfl⟩ := hi
  · exact blind_psh rt
  · exact blind_pop rd

/-! ### The report -/

/-- What the observation port shows of `s` once the run has ended (rule R166). -/
def State.report (s : State) : Report :=
  { regs := s.regs, pc := s.pc, lr := s.lr, sp := s.sp, flags := s.flags, data := s.dataMem, stack := s.stack,
    status := s.runState }

theorem eq_report_of_observe {s : State} {r : Report} (h : s.observe = some r) : r = s.report := by
  unfold State.observe at h
  split at h
  · exact (Option.some.inj h).symm
  · cases h

/-! ### The stack slots -/

theorem exec_sameStack {i : Instr} {s t : State} (h : exec i s = .next t) (hi : ∀ rt, i ≠ .psh rt) : SameStack s t := by
  obtain (⟨rt, rfl⟩ | ⟨rd, rfl⟩) | hn := psh_or_pop_or_not_usesStack i
  · exact absurd rfl (hi rt)
  · obtain ⟨-, rfl⟩ | ⟨k, -, -, rfl⟩ := exec_pop_eq_next_iff.mp h <;> exact fun _ => rfl
  · intro k
    rw [← (blind_of_not_usesStack hn).move_before h]
    rfl

/-- The second clause of rule R23: with other words in the slots, each slot ends up with the word it had or with the word
that PSH puts there in any case. -/
theorem exec_with_stack {i : Instr} {s t : State} (v : Vector Word 8) (h : exec i s = .next t) (hi : ∀ rd, i ≠ .pop rd) :
    ∃ v' : Vector Word 8, exec i { s with stack := v } = .next { t with stack := v' } ∧
      ∀ k : Fin 8, (v'[k] = v[k] ∧ t.stackRead k = s.stackRead k) ∨ v'[k] = t.stackRead k := by
  obtain (⟨rt, rfl⟩ | ⟨rd, rfl⟩) | hn := psh_or_pop_or_not_usesStack i
  · obtain ⟨hf, rfl⟩ | ⟨k, hf, hk, rfl⟩ := exec_psh_eq_next_iff.mp h
    · exact ⟨v, exec_psh_eq_next_iff.mpr (.inl ⟨hf, rfl⟩), fun _ => .inl ⟨rfl, rfl⟩⟩
    · refine ⟨v.set k (s.reg rt), exec_psh_eq_next_iff.mpr (.inr ⟨k, hf, hk, rfl⟩), fun j => ?_⟩
      have hv : (v.set k (s.reg rt))[j] = if j = k then s.reg rt else v[j] :=
        State.stackRead_stackWrite { s with stack := v } k j (s.reg rt)
      by_cases hj : j = k
      · exact .inr (by simp [hj])
      · exact .inl (by simp [hv, hj])
  · exact absurd rfl (hi rd)
  · have hb := blind_of_not_usesStack hn
    refine ⟨v, hb.exec_update h (fun u => { u with stack := v }) fun _ => rfl, fun k => .inl ⟨rfl, ?_⟩⟩
    rw [← hb.move_before h]
    rfl

/-- Settles O36: PSH and POP by what they answer, the others by their blindness to the slots. -/
theorem stackSlotsReach : Obligations.StackSlotsReach := by
  refine ⟨fun i s t h hi => exec_sameStack h hi, fun i s t v h hi => exec_with_stack v h hi, fun i s t h hi a => ?_,
    fun i s t m h hi => ?_, fun s r h k => ?_⟩
  · rw [← (blind_of_psh_or_pop hi).move_before h]
    rfl
  · exact (blind_of_psh_or_pop hi).exec_update h (fun u => { u with dataMem := m }) fun _ => rfl
  · rw [eq_report_of_observe h]
    rfl

/-! ### The Link Register -/

/-- `s` with the Link Register of `h`. -/
def State.moveLr (s h : State) : State := { s with lr := h.lr }

theorem blind_moveLr (i : Instr) : Blind i State.moveLr where
  move_self _ := rfl
  exec_move h e := by
    obtain hs | hn := psh_or_pop_or_not_usesStack i
    · exact (blind_of_psh_or_pop hs).exec_update e (fun u => u.moveLr h) fun _ => rfl
    · exact (blind_of_not_usesStack hn).exec_update e (fun u => u.moveLr h) fun _ => rfl

theorem exec_lr {i : Instr} {s t : State} (h : exec i s = .next t) : t.lr = s.lr := by
  rw [← (blind_moveLr i).move_before h]
  rfl

theorem step_lr {s t : State} (h : step s = .next t) : t.lr = s.lr := by
  obtain ⟨-, e⟩ | ⟨-, -, e⟩ | ⟨-, -, e⟩ := step_cases s <;> rw [e] at h
  · cases h; rfl
  · cases h; rfl
  · exact exec_lr h

theorem runFor_lr {k : Nat} {s t : State} (h : runFor k s = .next t) : t.lr = s.lr :=
  runFor_induction (P := fun s t => t.lr = s.lr) (fun _ => rfl) (fun _ _ _ h h' => h'.trans h) (fun _ _ => step_lr) k h

theorem boot_lr (p : Params) (image : List (Word × Word)) : (State.boot p image).lr = 0 := by
  obtain ⟨m, -, e⟩ := loadImage_spec (State.resetWith p) image rfl
  rw [State.boot, e]
  rfl

/-- Settles O39: every instruction is blind to `lr`, and so no step of a run changes it. -/
theorem linkRegisterIsInert : Obligations.LinkRegisterIsInert := by
  refine ⟨fun i s t v h => ⟨exec_lr h, (blind_moveLr i).exec_move { s with lr := v } h⟩,
    fun p image k t => ⟨boot_lr p image, fun h => (runFor_lr h).trans (boot_lr p image)⟩, fun s r h => ?_⟩
  rw [eq_report_of_observe h]
  rfl

/-! ### The Stack Pointer -/

theorem sp_of_not_usesStack {i : Instr} {s t : State} (hn : usesStack i = false) (h : exec i s = .next t) :
    t.sp = s.sp ∧ t.params = s.params := by
  rw [← (blind_of_not_usesStack hn).move_before h]
  exact ⟨rfl, rfl⟩

theorem exec_sp_changed {i : Instr} {s t : State} (h : exec i s = .next t) (hsp : t.sp ≠ s.sp) :
    (∃ rt, i = .psh rt ∧ t.sp = s.sp - 2) ∨ (∃ rd, i = .pop rd ∧ t.sp = s.sp + 2) := by
  obtain (⟨rt, rfl⟩ | ⟨rd, rfl⟩) | hn := psh_or_pop_or_not_usesStack i
  · obtain ⟨-, rfl⟩ | ⟨k, -, -, rfl⟩ := exec_psh_eq_next_iff.mp h
    · exact absurd rfl hsp
    · exact .inl ⟨rt, rfl, rfl⟩
  · obtain ⟨-, rfl⟩ | ⟨k, -, -, rfl⟩ := exec_pop_eq_next_iff.mp h
    · exact absurd rfl hsp
    · exact .inr ⟨rd, rfl, rfl⟩
  · exact absurd (sp_of_not_usesStack hn h).1 hsp

/-- A push into slot `k` leaves `k + 1` words on the stack, a pop from slot `k` leaves `k`. -/
theorem exec_spInWindow {i : Instr} {s t : State} (hw : s.spInWindow) (h : exec i s = .next t) : t.spInWindow := by
  obtain (⟨rt, rfl⟩ | ⟨rd, rfl⟩) | hn := psh_or_pop_or_not_usesStack i
  · obtain ⟨-, rfl⟩ | ⟨k, -, hk, rfl⟩ := exec_psh_eq_next_iff.mp h
    · exact hw
    · exact ⟨k.succ, slotOf_eq_some.mp hk⟩
  · obtain ⟨-, rfl⟩ | ⟨k, -, hk, rfl⟩ := exec_pop_eq_next_iff.mp h
    · exact hw
    · have hd := slotOf_eq_some.mp hk
      refine ⟨k.castSucc, ?_⟩
      change (s.sp + 2#16).toNat + 2 * k.val = s.params.stackBase.toNat
      rw [toNat_add_two (by omega)]
      omega
  · obtain ⟨hsp, hp⟩ := sp_of_not_usesStack hn h
    simpa only [State.spInWindow, State.hasDepth, hsp, hp] using hw

/-! ### Another base -/

theorem stackFull_rebase (s : State) (base : Word) : (s.rebase base).stackFull = s.stackFull := by
  refine decide_eq_decide.mpr ?_
  change s.sp - s.params.stackBase + base = base - 16#16 ↔ _
  bv_omega

theorem stackEmpty_rebase (s : State) (base : Word) : (s.rebase base).stackEmpty = s.stackEmpty := by
  refine decide_eq_decide.mpr ?_
  change s.sp - s.params.stackBase + base = base ↔ _
  bv_omega

/-- A slot keeps its number when `a` keeps its distance from the base: the window below any legal base has eight slots. -/
theorem slotOf_rebase {old base a : Word} {k : Fin 8} (hb : 16 ≤ base.toNat) (h : slotOf old a = some k) :
    slotOf base (a - old + base) = some k := by
  rw [slotOf_eq_some] at h ⊢
  bv_omega

/-- Moving `sp` and then the base is moving the base and then `sp`. -/
theorem rebase_sp_sub (s : State) (base d : Word) :
    (s.rebase base).sp - d = s.sp - d - s.params.stackBase + base := by
  change s.sp - s.params.stackBase + base - d = _
  ring

theorem rebase_sp_add (s : State) (base d : Word) :
    (s.rebase base).sp + d = s.sp + d - s.params.stackBase + base := by
  change s.sp - s.params.stackBase + base + d = _
  ring

theorem exec_rebase {i : Instr} {s t : State} {base : Word} (hb : 16 ≤ base.toNat) (h : exec i s = .next t) :
    exec i (s.rebase base) = .next (t.rebase base) := by
  obtain (⟨rt, rfl⟩ | ⟨rd, rfl⟩) | hn := psh_or_pop_or_not_usesStack i
  · rw [exec_psh_eq_next_iff, stackFull_rebase, rebase_sp_sub]
    obtain ⟨hf, rfl⟩ | ⟨k, hf, hk, rfl⟩ := exec_psh_eq_next_iff.mp h
    · exact .inl ⟨hf, rfl⟩
    · exact .inr ⟨k, hf, slotOf_rebase hb hk, rfl⟩
  · rw [exec_pop_eq_next_iff, stackEmpty_rebase, rebase_sp_add]
    obtain ⟨he, rfl⟩ | ⟨k, he, hk, rfl⟩ := exec_pop_eq_next_iff.mp h
    · exact .inl ⟨he, rfl⟩
    · exact .inr ⟨k, he, slotOf_rebase hb hk, rfl⟩
  · exact (blind_of_not_usesStack hn).exec_update h (fun u => u.rebase base) fun _ => rfl

/-- Settles O40: PSH and POP by the slot they use, the others by their blindness to `sp` and the base. -/
theorem stackPointerChangesOnlyByPshAndPop : Obligations.StackPointerChangesOnlyByPshAndPop := by
  refine ⟨fun i s t => exec_sp_changed, fun i s t _ hw h => exec_spInWindow hw h,
    fun i s t base _ _ hb h => exec_rebase hb h, fun s r h => ?_⟩
  rw [eq_report_of_observe h]
  rfl

end Sys2Proof.Machine
end

section
/-! The ALU over all its operations (43_alu.md rules R100 to R102).

All seven ALU instructions are one write-back, which reads nothing of the state but the two operands; this gives R100.
ADD and SUB compute the word sum and difference, and their sign formulas for Ov are the library's signed overflow tests. -/

namespace Sys2Proof.Machine

/-! ### The ALU's write-back -/

@[simp] theorem aluWriteBack_reg_same (s : State) (op : AluOp) (rd : Reg) (a b : Word) :
    (s.aluWriteBack op rd a b).reg rd = aluResult op a b := by
  rw [aluWriteBack_eq, State.reg_setPc, State.reg_setReg_same]

@[simp] theorem aluWriteBack_flags (s : State) (op : AluOp) (rd : Reg) (a b : Word) :
    (s.aluWriteBack op rd a b).flags = aluFlags op a b := rfl

/-- The old flags are overwritten, not read. -/
theorem aluWriteBack_setFlags (s : State) (f : Flags) (op : AluOp) (rd : Reg) (a b : Word) :
    (s.setFlags f).aluWriteBack op rd a b = s.aluWriteBack op rd a b := rfl

/-- Every ALU instruction is the write-back of its operation; NOT looks at its first operand only (rule R106), so its second
may be taken to be any register. -/
theorem exec_alu {rd rs rt : Reg} {i : Instr}
    (hi : i ∈ [Instr.add rd rs rt, .sub rd rs rt, .mul rd rs rt, .and rd rs rt, .or rd rs rt, .not rd rs, .xor rd rs rt]) :
    ∃ op, ∀ s : State, exec i s = .next (s.aluWriteBack op rd (s.reg rs) (s.reg rt)) := by
  simp only [List.mem_cons, List.not_mem_nil, or_false] at hi
  obtain rfl | rfl | rfl | rfl | rfl | rfl | rfl := hi
  · exact ⟨.add, fun _ => rfl⟩
  · exact ⟨.sub, fun _ => rfl⟩
  · exact ⟨.mul, fun _ => rfl⟩
  · exact ⟨.and, fun _ => rfl⟩
  · exact ⟨.or, fun _ => rfl⟩
  · exact ⟨.not, fun _ => rfl⟩
  · exact ⟨.xor, fun _ => rfl⟩

/-! ### Zero and sign -/

theorem aluFlags_z_iff (op : AluOp) (a b : Word) : (aluFlags op a b).z = true ↔ aluResult op a b = 0 :=
  decide_eq_true_iff

theorem aluFlags_s_eq_bit (op : AluOp) (a b : Word) : (aluFlags op a b).s = (aluResult op a b).getLsbD 15 := by
  rw [aluFlags_s, signFlag, sign, BitVec.msb_eq_getLsbD_last]

/-- Settles O29: the next state is the write-back of the two operand values, whatever the instruction. -/
theorem aluIsPureFunctionOfOperands : Obligations.AluIsPureFunctionOfOperands := by
  intro rd rs rt i hi s
  obtain ⟨op, exec_eq⟩ := exec_alu hi
  refine ⟨_, exec_eq s, ?zero, ?sign, fun s' hrs hrt => ⟨_, exec_eq s', ?result, ?flags⟩, fun f => ?oldFlags⟩
  case zero => rw [aluWriteBack_flags, aluWriteBack_reg_same, aluFlags_z_iff]
  case sign => rw [aluWriteBack_flags, aluWriteBack_reg_same, aluFlags_s_eq_bit]
  case result => rw [hrs, hrt, aluWriteBack_reg_same, aluWriteBack_reg_same]
  case flags => rw [hrs, hrt, aluWriteBack_flags, aluWriteBack_flags]
  case oldFlags => rw [exec_eq, State.reg_setFlags, State.reg_setFlags, aluWriteBack_setFlags]

/-! ### Overflow of ADD and SUB -/

theorem aluResult_add (a b : Word) : aluResult .add a b = a + b := by
  simp [aluResult, BitVec.ofNat_add]

theorem aluResult_sub (a b : Word) : aluResult .sub a b = a - b := by
  refine BitVec.eq_of_toNat_eq ?_
  rw [aluResult, BitVec.toNat_ofInt, BitVec.toNat_sub]
  omega

theorem aluOverflow_add (a b : Word) : aluOverflow .add a b = a.saddOverflow b := by
  rw [BitVec.saddOverflow_eq, ← aluResult_add]
  rfl

/-- The signs differ and the result's is not the minuend's: the two ways a signed difference overflows. -/
theorem aluOverflow_sub (a b : Word) : aluOverflow .sub a b = a.ssubOverflow b := by
  rw [BitVec.ssubOverflow_eq, ← aluResult_sub, aluOverflow, subOverflow, sign, sign, sign]
  cases a.msb <;> cases b.msb <;> simp

theorem aluOverflow_add_iff (a b : Word) :
    aluOverflow .add a b = true ↔ ¬ (-32768 ≤ signed a + signed b ∧ signed a + signed b ≤ 32767) := by
  simp only [aluOverflow_add, BitVec.saddOverflow, signed, Bool.or_eq_true, decide_eq_true_eq]
  omega

theorem aluOverflow_sub_iff (a b : Word) :
    aluOverflow .sub a b = true ↔ ¬ (-32768 ≤ signed a - signed b ∧ signed a - signed b ≤ 32767) := by
  simp only [aluOverflow_sub, BitVec.ssubOverflow, signed, Bool.or_eq_true, decide_eq_true_eq]
  omega

/-- Settles O44: Ov is the ALU's overflow of the two register values. -/
theorem addSubOverflowIsSignedOverflow : Obligations.AddSubOverflowIsSignedOverflow := by
  refine fun s t rd rs rt => ⟨fun h => ?add, fun h => ?sub⟩
  case add => cases h; exact aluOverflow_add_iff (s.reg rs) (s.reg rt)
  case sub => cases h; exact aluOverflow_sub_iff (s.reg rs) (s.reg rt)

end Sys2Proof.Machine
end

section
/-! Decoding and encoding (30_encoding.md): each undoes the other, on well-formed instructions and on the used bits of a word. -/

namespace Sys2Proof

/-! ### The fields of an encoding -/

section PackedFields

variable {op rd rs rt sel hi lo : Nat} {off : Int}

theorem opcodeOf_packWord (h0 : op < 32) (h1 : rd < 8) (h2 : rs < 8) (h3 : rt < 8) (h4 : sel < 4) :
    opcodeOf (packWord op rd rs rt sel) = op :=
  have ⟨h, _⟩ := packWord_fields h0 h1 h2 h3 h4
  h

theorem selOf_packWord (h0 : op < 32) (h1 : rd < 8) (h2 : rs < 8) (h3 : rt < 8) (h4 : sel < 4) :
    selOf (packWord op rd rs rt sel) = sel :=
  have ⟨_, _, _, _, h⟩ := packWord_fields h0 h1 h2 h3 h4
  h

theorem regField_packWord_rd {r : Reg} (h0 : op < 32) (h2 : rs < 8) (h3 : rt < 8) (h4 : sel < 4) :
    regField (packWord op r rs rt sel) 8 = r :=
  have ⟨_, h, _⟩ := packWord_fields h0 r.isLt h2 h3 h4
  regField_eq h

theorem regField_packWord_rs {r : Reg} (h0 : op < 32) (h1 : rd < 8) (h3 : rt < 8) (h4 : sel < 4) :
    regField (packWord op rd r rt sel) 5 = r :=
  have ⟨_, _, h, _⟩ := packWord_fields h0 h1 r.isLt h3 h4
  regField_eq h

theorem regField_packWord_rt {r : Reg} (h0 : op < 32) (h1 : rd < 8) (h2 : rs < 8) (h4 : sel < 4) :
    regField (packWord op rd rs r sel) 2 = r :=
  have ⟨_, _, _, h, _⟩ := packWord_fields h0 h1 h2 r.isLt h4
  regField_eq h

theorem opcodeOf_packJump (h : sel < 4) : opcodeOf (packJump off sel) = 1 :=
  have ⟨hop, _⟩ := packJump_fields h
  hop

theorem selOf_packJump (h : sel < 4) : selOf (packJump off sel) = sel :=
  have ⟨_, _, hsel⟩ := packJump_fields h
  hsel

theorem sext9_packJump (hoff : offsetInRange off = true) (h : sel < 4) : sext9 (bits (packJump off sel) 10 2) = off := by
  simp only [offsetInRange, Bool.and_eq_true, decide_eq_true_eq] at hoff
  obtain ⟨-, hbits, -⟩ := packJump_fields (off := off) h
  rw [hbits, sext9_emod hoff.1 hoff.2]

theorem opcodeOf_packLow5 (h0 : op < 32) (h1 : hi < 8) (h2 : rs < 8) (h3 : lo < 32) : opcodeOf (packLow5 op hi rs lo) = op :=
  have ⟨h, _⟩ := packLow5_fields h0 h1 h2 h3
  h

theorem regField_packLow5_hi {r : Reg} (h0 : op < 32) (h2 : rs < 8) (h3 : lo < 32) : regField (packLow5 op r rs lo) 8 = r :=
  have ⟨_, h, _⟩ := packLow5_fields h0 r.isLt h2 h3
  regField_eq h

theorem regField_packLow5_rs {r : Reg} (h0 : op < 32) (h1 : hi < 8) (h3 : lo < 32) : regField (packLow5 op hi r lo) 5 = r :=
  have ⟨_, _, h, _⟩ := packLow5_fields h0 h1 r.isLt h3
  regField_eq h

theorem bits_hi_packLow5 (h0 : op < 32) (h1 : hi < 8) (h2 : rs < 8) (h3 : lo < 32) : bits (packLow5 op hi rs lo) 10 8 = hi :=
  have ⟨_, h, _⟩ := packLow5_fields h0 h1 h2 h3
  h

theorem bits_lo_packLow5 (h0 : op < 32) (h1 : hi < 8) (h2 : rs < 8) (h3 : lo < 32) : bits (packLow5 op hi rs lo) 4 0 = lo :=
  have ⟨_, _, _, h⟩ := packLow5_fields h0 h1 h2 h3
  h

/-- Format I8 is format SH with the immediate's upper three bits at `rs` and its lower five at `shamt` (rule R54). -/
theorem encode_movi (rd : Reg) (imm : Word) :
    encode (.movi rd imm) = packLow5 3 rd (imm.toNat / 32 % 8) (imm.toNat % 32) := by
  rw [encode, packLow5]
  congr 1
  omega

theorem bits_imm_packLow5 (h0 : op < 32) (h1 : hi < 8) (h2 : rs < 8) (h3 : lo < 32) :
    bits (packLow5 op hi rs lo) 7 0 = rs * 32 + lo := by
  simp only [bits, toNat_packLow5 h0 h1 h2 h3]
  omega

/-- An immediate in range is the zero extension of its two parts (rules R55, R58). -/
theorem zext8_parts {imm : Word} (h : immInRange imm = true) : zext8 (imm.toNat / 32 % 8 * 32 + imm.toNat % 32) = imm := by
  have := of_decide_eq_true h
  rw [zext8, show imm.toNat / 32 % 8 * 32 + imm.toNat % 32 = imm.toNat by omega, BitVec.ofNat_toNat, BitVec.setWidth_eq]

theorem lt_of_shamtInRange {n : Nat} (h : shamtInRange n = true) : n < 32 :=
  Nat.lt_succ_of_le (of_decide_eq_true h)

end PackedFields

/-! ### Decode after encode -/

/-- Settles O3, by cases on the instruction: the decoder reads back each field that its format packs. -/
theorem decodeOfEncode : Obligations.DecodeOfEncode := by
  intro i hi
  cases i with
  | jmp off | jeq off | jlt off | jgt off =>
    simp [encode, decode, decodeGroup1, opcodeOf_packJump, selOf_packJump, sext9_packJump hi]
  | movi rd imm =>
    simp [encode_movi, decode, opcodeOf_packLow5, regField_packLow5_hi, bits_imm_packLow5, zext8_parts hi, Nat.mod_lt]
  | stri rs imm =>
    simp [encode, decode, opcodeOf_packLow5, regField_packLow5_rs, bits_hi_packLow5, bits_lo_packLow5, zext8_parts hi, Nat.mod_lt]
  | shr rd rs n | shl rd rs n =>
    have hn := lt_of_shamtInRange hi
    simp [encode, decode, opcodeOf_packLow5, regField_packLow5_hi, regField_packLow5_rs, bits_lo_packLow5,
      Nat.mod_eq_of_lt hn, hn]
  | _ =>
    simp [encode, decode, decodeGroup0, unrecognizedOf, opcodeOf_packWord, selOf_packWord, regField_packWord_rd,
      regField_packWord_rs, regField_packWord_rt]


/-! ### Words by their fields -/

/-- A word is the packing of its five fields (rule R51). -/
theorem packWord_of_fields (w : Word) : packWord (opcodeOf w) (bits w 10 8) (bits w 7 5) (bits w 4 2) (selOf w) = w := by
  refine BitVec.eq_of_toNat_eq ?_
  rw [packWord, BitVec.toNat_ofNat]
  simp only [opcodeOf, selOf, bits]
  omega

theorem bits_and (w m : Word) (hi lo : Nat) : bits (w &&& m) hi lo = bits w hi lo &&& bits m hi lo := by
  rw [bits, BitVec.toNat_and, Nat.and_div_two_pow, Nat.and_mod_two_pow]
  rfl

theorem bits_lt (w : Word) (hi lo : Nat) : bits w hi lo < 2 ^ (hi + 1 - lo) :=
  Nat.mod_lt _ (Nat.two_pow_pos _)

theorem opcodeOf_lt (w : Word) : opcodeOf w < 32 := bits_lt w 15 11

theorem regField_rd (w : Word) : (regField w 8).val = bits w 10 8 := Nat.mod_eq_of_lt (bits_lt w 10 8)

theorem regField_rs (w : Word) : (regField w 5).val = bits w 7 5 := Nat.mod_eq_of_lt (bits_lt w 7 5)

theorem regField_rt (w : Word) : (regField w 2).val = bits w 4 2 := Nat.mod_eq_of_lt (bits_lt w 4 2)

/-- A mask that keeps the opcode works on each of the other four fields by itself. -/
theorem and_packWord (w : Word) {md ms mt me : Nat} (h1 : md < 8) (h2 : ms < 8) (h3 : mt < 8) (h4 : me < 4) :
    w &&& packWord 31 md ms mt me =
      packWord (opcodeOf w) (bits w 10 8 &&& md) (bits w 7 5 &&& ms) (bits w 4 2 &&& mt) (selOf w &&& me) := by
  obtain ⟨hop, hrd, hrs, hrt, hsel⟩ := packWord_fields (op := 31) (by decide) h1 h2 h3 h4
  rw [← packWord_of_fields (w &&& _)]
  unfold opcodeOf selOf at *
  simp only [bits_and, hop, hrd, hrs, hrt, hsel]
  rw [Nat.and_two_pow_sub_one_of_lt_two_pow (n := 5) (bits_lt w 15 11)]

theorem rd_and_seven (w : Word) : bits w 10 8 &&& 7 = regField w 8 := by
  rw [regField_rd, Nat.and_two_pow_sub_one_of_lt_two_pow (n := 3) (bits_lt w 10 8)]

theorem rs_and_seven (w : Word) : bits w 7 5 &&& 7 = regField w 5 := by
  rw [regField_rs, Nat.and_two_pow_sub_one_of_lt_two_pow (n := 3) (bits_lt w 7 5)]

theorem rt_and_seven (w : Word) : bits w 4 2 &&& 7 = regField w 2 := by
  rw [regField_rt, Nat.and_two_pow_sub_one_of_lt_two_pow (n := 3) (bits_lt w 4 2)]

/-! ### Encode after decode -/

theorem sext9_emod_toNat {v : Nat} (h : v < 512) : (sext9 v % 512).toNat = v := by
  unfold sext9
  split_ifs <;> omega

theorem selOf_lt (w : Word) : selOf w < 4 := bits_lt w 1 0

/-- The selector values of a group of opcode 0 or 1 (rules R60, R61). -/
theorem selOf_cases (w : Word) : selOf w = 0 ∨ selOf w = 1 ∨ selOf w = 2 ∨ selOf w = 3 := by
  have := selOf_lt w
  omega

theorem packJump_of_fields {w : Word} (h : opcodeOf w = 1) : packJump (sext9 (bits w 10 2)) (selOf w) = w := by
  refine BitVec.eq_of_toNat_eq ?_
  rw [toNat_packJump (selOf_lt w), sext9_emod_toNat (bits_lt w 10 2)]
  simp only [opcodeOf, selOf, bits] at *
  omega

theorem packLow5_of_fields (w : Word) : packLow5 (opcodeOf w) (bits w 10 8) (bits w 7 5) (bits w 4 0) = w := by
  refine BitVec.eq_of_toNat_eq ?_
  rw [toNat_packLow5 (opcodeOf_lt w) (bits_lt w 10 8) (bits_lt w 7 5) (bits_lt w 4 0)]
  simp only [opcodeOf, bits]
  omega

theorem and_ffff (w : Word) : w &&& 0xFFFF = w := BitVec.and_allOnes

theorem toNat_zext8 {n : Nat} (h : n < 256) : (zext8 n).toNat = n := by
  rw [zext8, BitVec.toNat_ofNat]
  omega

/-- The zero-extended number splits into the two parts it is packed in. -/
theorem zext8_toNat_parts {hi lo : Nat} (h1 : hi < 8) (h3 : lo < 32) :
    (zext8 (hi * 32 + lo)).toNat / 32 % 8 = hi ∧ (zext8 (hi * 32 + lo)).toNat % 32 = lo := by
  rw [toNat_zext8 (by omega)]
  omega

theorem bits_imm (w : Word) : bits w 7 0 = bits w 7 5 * 32 + bits w 4 0 := by
  simp only [bits]
  omega

theorem encode_decodeGroup0 {w : Word} (h : opcodeOf w = 0) :
    encode (decodeGroup0 w) = w &&& (decodeGroup0 w).usedBits := by
  obtain hs | hs | hs | hs := selOf_cases w <;> simp only [decodeGroup0, hs, encode, Instr.usedBits]
  · change _ = w &&& packWord 31 0 0 0 3
    simp [and_packWord, h, hs]
  · change _ = w &&& packWord 31 0 0 7 3
    simp [and_packWord, h, hs, rt_and_seven]
  · change _ = w &&& packWord 31 7 0 0 3
    simp [and_packWord, h, hs, rd_and_seven]
  · change _ = w &&& packWord 31 0 7 7 3
    simp [and_packWord, h, hs, rs_and_seven, rt_and_seven]

theorem encode_decodeGroup1 {w : Word} (h : opcodeOf w = 1) :
    encode (decodeGroup1 w) = w &&& (decodeGroup1 w).usedBits := by
  have e := packJump_of_fields h
  obtain hs | hs | hs | hs := selOf_cases w <;>
    · rw [hs] at e
      simp only [decodeGroup1, hs, encode, Instr.usedBits, e, and_ffff]

/-- The thirteen unassigned opcodes (rule R62). -/
def unassignedOpcodes : List Nat := [7, 9, 11, 13, 15, 17, 19, 21, 23, 25, 27, 29, 30]

/-- The encoding of an Unrecognized variant is its opcode alone. -/
theorem encode_unrecognizedOf : ∀ op ∈ unassignedOpcodes,
    encode (unrecognizedOf op) = packWord op 0 0 0 0 ∧ (unrecognizedOf op).usedBits = packWord 31 0 0 0 0 := by
  decide

/-- Formats R3 and RR, and HALT: the fields named by the format are kept, the rest is ignored. -/
theorem packWord_eq_and {w : Word} {op : Nat} (h : opcodeOf w = op) :
    packWord op (regField w 8) (regField w 5) (regField w 2) 0 = w &&& 0xFFFC ∧
    packWord op (regField w 8) (regField w 5) 0 0 = w &&& 0xFFE0 ∧
    packWord op 0 (regField w 5) (regField w 2) 0 = w &&& 0xF8FC ∧
    packWord op 0 0 0 0 = w &&& 0xF800 := by
  refine ⟨?_, ?_, ?_, ?_⟩
  · change _ = w &&& packWord 31 7 7 7 0
    simp [and_packWord, h, rd_and_seven, rs_and_seven, rt_and_seven]
  · change _ = w &&& packWord 31 7 7 0 0
    simp [and_packWord, h, rd_and_seven, rs_and_seven]
  · change _ = w &&& packWord 31 0 7 7 0
    simp [and_packWord, h, rs_and_seven, rt_and_seven]
  · change _ = w &&& packWord 31 0 0 0 0
    simp [and_packWord, h]

/-- Formats I8, MI and SH use every bit. -/
theorem packLow5_eq_and {w : Word} {op : Nat} (h : opcodeOf w = op) :
    packLow5 op (regField w 8) (regField w 5) (bits w 4 0) = w &&& 0xFFFF := by
  rw [and_ffff, regField_rd, regField_rs, ← h, packLow5_of_fields]

theorem encode_movi_of_fields {w : Word} (h : opcodeOf w = 3) :
    encode (.movi (regField w 8) (zext8 (bits w 7 0))) = w &&& 0xFFFF := by
  obtain ⟨hhi, hlo⟩ := zext8_toNat_parts (regField w 5).isLt (bits_lt w 4 0)
  rw [encode_movi, bits_imm, ← regField_rs, hhi, hlo, packLow5_eq_and h]

theorem encode_stri_of_fields {w : Word} (h : opcodeOf w = 5) :
    encode (.stri (regField w 5) (zext8 (bits w 10 8 * 32 + bits w 4 0))) = w &&& 0xFFFF := by
  obtain ⟨hhi, hlo⟩ := zext8_toNat_parts (regField w 8).isLt (bits_lt w 4 0)
  rw [encode, ← regField_rd, hhi, hlo, packLow5_eq_and h]

theorem lo_mod_32 (w : Word) : bits w 4 0 % 32 = bits w 4 0 := Nat.mod_eq_of_lt (bits_lt w 4 0)

theorem encode_shr_of_fields {w : Word} (h : opcodeOf w = 22) :
    encode (.shr (regField w 8) (regField w 5) (bits w 4 0)) = w &&& 0xFFFF := by
  rw [encode, lo_mod_32, packLow5_eq_and h]

theorem encode_shl_of_fields {w : Word} (h : opcodeOf w = 24) :
    encode (.shl (regField w 8) (regField w 5) (bits w 4 0)) = w &&& 0xFFFF := by
  rw [encode, lo_mod_32, packLow5_eq_and h]

/-- The fields the decoder reads are those the mask of used bits keeps (rules R54, R63). -/
theorem encode_decode (w : Word) : encode (decode w) = w &&& (decode w).usedBits := by
  obtain ⟨hR3, hRR, hMS, hNone⟩ := packWord_eq_and (w := w) rfl
  have hlt := opcodeOf_lt w
  unfold decode
  generalize hop : opcodeOf w = op at *
  split
  · exact encode_decodeGroup0 hop -- NOP, PSH, POP, CMP
  · exact encode_decodeGroup1 hop -- the jumps
  · exact hRR -- MOV
  · exact encode_movi_of_fields hop -- MOVI
  · exact hMS -- STR
  · exact encode_stri_of_fields hop -- STRI
  · exact hRR -- LDR
  · exact hR3 -- ADD
  · exact hR3 -- SUB
  · exact hR3 -- MUL
  · exact hR3 -- AND
  · exact hR3 -- OR
  · exact hRR -- NOT
  · exact hR3 -- XOR
  · exact encode_shr_of_fields hop -- SHR
  · exact encode_shl_of_fields hop -- SHL
  · exact hRR -- ROR
  · exact hRR -- ROL
  · exact hNone -- HALT
  · have hu : op ∈ unassignedOpcodes := by
      simp only [unassignedOpcodes, List.mem_cons, List.not_mem_nil, or_false]
      simp only [imp_false] at *
      omega
    obtain ⟨he, hm⟩ := encode_unrecognizedOf op hu
    rw [he, hm]
    exact hNone

/-- Settles O4, format by format: the fields the decoder reads are those the mask of used bits keeps. -/
theorem encodeOfDecodeClearsIgnoredBits : Obligations.EncodeOfDecodeClearsIgnoredBits :=
  encode_decode

/-! ### Decoded instructions are well-formed -/

theorem offsetInRange_sext9 {v : Nat} (h : v < 512) : offsetInRange (sext9 v) = true := by
  unfold offsetInRange sext9
  split_ifs <;> simp <;> omega

theorem immInRange_zext8 {n : Nat} (h : n < 256) : immInRange (zext8 n) = true := by
  rw [immInRange, toNat_zext8 h, decide_eq_true_eq]
  omega

theorem wellFormed_decodeGroup0 (w : Word) : (decodeGroup0 w).wellFormed = true := by
  unfold decodeGroup0
  split <;> rfl

theorem wellFormed_decodeGroup1 (w : Word) : (decodeGroup1 w).wellFormed = true := by
  unfold decodeGroup1
  split <;> exact offsetInRange_sext9 (bits_lt w 10 2)

theorem wellFormed_unrecognizedOf (op : Nat) : (unrecognizedOf op).wellFormed = true := by
  unfold unrecognizedOf
  split <;> rfl

theorem wellFormed_decode (w : Word) : (decode w).wellFormed = true := by
  have hrd := bits_lt w 10 8
  have hlo := bits_lt w 4 0
  unfold decode
  split
  case h_1 => exact wellFormed_decodeGroup0 w
  case h_2 => exact wellFormed_decodeGroup1 w
  case h_4 => exact immInRange_zext8 (bits_lt w 7 0)
  case h_6 => exact immInRange_zext8 (by omega)
  case h_15 | h_16 => exact decide_eq_true (Nat.le_of_lt_succ hlo)
  case h_20 => exact wellFormed_unrecognizedOf _
  all_goals rfl

/-- Settles O6, opcode by opcode: each field the decoder reads has as many bits as its range. -/
theorem decodedInstructionsAreWellFormed : Obligations.DecodedInstructionsAreWellFormed :=
  wellFormed_decode

/-! ### Table rows -/

theorem usedBits_and_tableMask (i : Instr) : i.usedBits &&& i.tableMask = i.tableMask := by
  cases i <;> dsimp only [Instr.usedBits, Instr.tableMask] <;> decide

open Laws in
theorem encode_and_tableMask (i : Instr) : encode i &&& i.tableMask = i.tableMatch :=
  match i with
  | .nop => FixedBits.nop
  | .psh a => FixedBits.psh a
  | .pop a => FixedBits.pop a
  | .cmp a b => FixedBits.cmp a b
  | .jmp a => FixedBits.jmp a
  | .jeq a => FixedBits.jeq a
  | .jlt a => FixedBits.jlt a
  | .jgt a => FixedBits.jgt a
  | .mov a b => FixedBits.mov a b
  | .movi a b => FixedBits.movi a b
  | .str a b => FixedBits.str a b
  | .stri a b => FixedBits.stri a b
  | .ldr a b => FixedBits.ldr a b
  | .add a b c => FixedBits.add a b c
  | .sub a b c => FixedBits.sub a b c
  | .mul a b c => FixedBits.mul a b c
  | .and a b c => FixedBits.and a b c
  | .or a b c => FixedBits.or a b c
  | .not a b => FixedBits.not a b
  | .xor a b c => FixedBits.xor a b c
  | .shr a b c => FixedBits.shr a b c
  | .shl a b c => FixedBits.shl a b c
  | .ror a b => FixedBits.ror a b
  | .rol a b => FixedBits.rol a b
  | .halt => FixedBits.halt
  | .unrecognized7 => FixedBits.unrecognized7
  | .unrecognized9 => FixedBits.unrecognized9
  | .unrecognized11 => FixedBits.unrecognized11
  | .unrecognized13 => FixedBits.unrecognized13
  | .unrecognized15 => FixedBits.unrecognized15
  | .unrecognized17 => FixedBits.unrecognized17
  | .unrecognized19 => FixedBits.unrecognized19
  | .unrecognized21 => FixedBits.unrecognized21
  | .unrecognized23 => FixedBits.unrecognized23
  | .unrecognized25 => FixedBits.unrecognized25
  | .unrecognized27 => FixedBits.unrecognized27
  | .unrecognized29 => FixedBits.unrecognized29
  | .unrecognized30 => FixedBits.unrecognized30

theorem decode_matches_row (w : Word) : w &&& (decode w).tableMask = (decode w).tableMatch := by
  rw [← encode_and_tableMask, encode_decode, BitVec.and_assoc, usedBits_and_tableMask]

/-- A row whose mask is 0xF803 is one of opcode 0 or 1, every other row is of another opcode and has mask 0xF800. -/
theorem tableMask_cases (i : Instr) :
    (i.tableMask = 0xF803 ∧ (i.tableMatch &&& 0xF800 = 0 ∨ i.tableMatch &&& 0xF800 = 0x800)) ∨
    (i.tableMask = 0xF800 ∧ i.tableMatch ≠ 0 ∧ i.tableMatch ≠ 0x800) := by
  cases i <;> dsimp only [Instr.tableMask, Instr.tableMatch] <;> decide

theorem and_F803_and_F800 (w : Word) : w &&& 0xF803 &&& 0xF800 = w &&& 0xF800 := by
  rw [BitVec.and_assoc]
  rfl

/-- A word of opcode 0 or 1 matches no row of another opcode. -/
theorem not_matches_both {w : Word} {i j : Instr} (hi : w &&& 0xF803 = i.tableMatch) (hj : w &&& 0xF800 = j.tableMatch)
    (hi' : i.tableMatch &&& 0xF800 = 0 ∨ i.tableMatch &&& 0xF800 = 0x800) :
    j.tableMatch = 0 ∨ j.tableMatch = 0x800 := by
  rwa [← hi, and_F803_and_F800, hj] at hi'

theorem tableMatch_unique {w : Word} {i j : Instr} (hi : w &&& i.tableMask = i.tableMatch)
    (hj : w &&& j.tableMask = j.tableMatch) : i.tableMatch = j.tableMatch := by
  obtain ⟨mi, ci⟩ | ⟨mi, ni⟩ := tableMask_cases i <;> obtain ⟨mj, cj⟩ | ⟨mj, nj⟩ := tableMask_cases j <;>
    rw [mi] at hi <;> rw [mj] at hj
  · exact hi.symm.trans hj
  · exact absurd (not_matches_both hi hj ci) (not_or.mpr nj)
  · exact absurd (not_matches_both hj hi cj) (not_or.mpr ni)
  · exact hi.symm.trans hj

/-- Settles O7: a word has the fixed bits of what it decodes to, and no two rows agree with one word. -/
theorem everyWordMatchesOneTableRow : Obligations.EveryWordMatchesOneTableRow :=
  fun w => ⟨decode_matches_row w, fun _ hi => tableMatch_unique hi (decode_matches_row w)⟩

/-! ### Ignored bits -/

/-- A row's match, read as a word, decodes to an instruction of the row. -/
theorem usedBits_decode_tableMatch (i : Instr) : (decode i.tableMatch).usedBits = i.usedBits := by
  cases i <;> dsimp only [Instr.usedBits, Instr.tableMatch] <;> decide

theorem encode_decode_injective {w v : Word} (h : encode (decode v) = encode (decode w)) : decode v = decode w := by
  rw [← decodeOfEncode _ (wellFormed_decode v), h, decodeOfEncode _ (wellFormed_decode w)]

/-- Settles O5: `v` matches the row of `decode w`, so both words re-encode to the same canonical word. -/
theorem decodeReadsOnlyUsedBits : Obligations.DecodeReadsOnlyUsedBits := by
  intro w v h
  have hrow : v &&& (decode w).tableMask = (decode w).tableMatch := by
    rw [← usedBits_and_tableMask, ← BitVec.and_assoc, h, BitVec.and_assoc, usedBits_and_tableMask, decode_matches_row]
  have hused : (decode v).usedBits = (decode w).usedBits := by
    rw [← usedBits_decode_tableMatch, tableMatch_unique (decode_matches_row v) hrow, usedBits_decode_tableMatch]
  apply encode_decode_injective
  rw [encode_decode, encode_decode, hused, h]

/-! ### Unassigned opcodes -/

/-- What the variant an opcode decodes to carries: the opcode itself if it is unassigned (rule R65). -/
def carriedOpcode? (op : Nat) : Option Nat := if op ∈ unassignedOpcodes then some op else none

theorem unrecognizedOpcode?_eq (i : Instr) : i.unrecognizedOpcode? = carriedOpcode? (i.tableMatch.toNat / 2048) := by
  cases i <;> dsimp only [Instr.unrecognizedOpcode?, Instr.tableMatch] <;> decide

theorem and_F800_div (w : Word) : (w &&& 0xF800).toNat / 2048 = w.toNat / 2048 := by
  change (w &&& 0xF800#16).toNat / 2048 = _
  rw [and_F800, BitVec.toNat_ofNat]
  omega

theorem tableMask_and_F800 (i : Instr) : i.tableMask &&& 0xF800 = 0xF800 := by
  cases i <;> dsimp only [Instr.tableMask] <;> decide

/-- Settles O8: the opcode of a word is that of the row it matches. -/
theorem unassignedOpcodesDecodeToUnrecognized : Obligations.UnassignedOpcodesDecodeToUnrecognized := by
  intro w
  have hop : (decode w).tableMatch.toNat / 2048 = w.toNat / 2048 := by
    rw [← decode_matches_row, ← and_F800_div, BitVec.and_assoc, tableMask_and_F800, and_F800_div]
  rw [unrecognizedOpcode?_eq, hop]
  rfl

/-! ### The source's words -/

/-- Settles O1 by running the decoder. -/
theorem sourceWordsDecode : Obligations.SourceWordsDecode := by
  unfold Obligations.SourceWordsDecode
  decide

/-- Settles O2 by running the decoder. -/
theorem wordsOfEveryFormatDecode : Obligations.WordsOfEveryFormatDecode := by
  unfold Obligations.WordsOfEveryFormatDecode
  decide

end Sys2Proof
end


section
/-! What an instruction can do, said once, and what follows for registers, flags, `pc`, the memories and the invariant
(10_state.md, 60_exceptions.md). -/

namespace Sys2Proof.Machine

/-! ### Everything an instruction can do -/

/-- The jumps with one offset (rules R81 to R84). -/
def jumpInstrs (off : Int) : List Instr := [.jmp off, .jeq off, .jlt off, .jgt off]

/-- The ALU instructions with one choice of registers (rule R100). -/
def aluInstrs (rd rs rt : Reg) : List Instr :=
  [.add rd rs rt, .sub rd rs rt, .mul rd rs rt, .and rd rs rt, .or rd rs rt, .not rd rs, .xor rd rs rt]

/-- The next states an instruction can answer. -/
inductive Effect (s : State) : Instr → State → Prop
  | pshFull (rt : Reg) (h : s.sp = s.params.stackBase - 16#16) : Effect s (.psh rt) (s.raise .stackFault)
  | popEmpty (rd : Reg) (h : s.sp = s.params.stackBase) : Effect s (.pop rd) (s.raise .stackFault)
  | unrecognized {i : Instr} {op : Nat} (h : i.unrecognizedOpcode? = some op) : Effect s i (s.raise .unrecognizedOpcode)
  | halt : Effect s .halt s.advance.haltNormal
  | nop : Effect s .nop s.advance
  | jump {i : Instr} {off : Int} (hi : i ∈ jumpInstrs off) (taken : Bool) :
      Effect s i (s.setPc (if taken then jumpTarget s.pc off else s.advance.pc))
  | write {i : Instr} {rd : Reg} (hd : i.destReg? = some rd) (v : Word) : Effect s i (s.writeBack rd v)
  | alu {i : Instr} {rd rs rt : Reg} (hi : i ∈ aluInstrs rd rs rt) (op : AluOp) (a b : Word) :
      Effect s i (s.aluWriteBack op rd a b)
  | cmp (rs rt : Reg) : Effect s (.cmp rs rt) (s.setFlags (cmpFlags (s.reg rs) (s.reg rt) s.flags)).advance
  | store {i : Instr} {rs : Reg} (hi : (∃ rt, i = .str rs rt) ∨ ∃ imm, i = .stri rs imm) (v : Word) :
      Effect s i (s.dataWrite (s.effectiveAddress rs) v).advance
  | psh (rt : Reg) (k : Fin 8) (hk : slotOf s.params.stackBase (s.sp - 2#16) = some k) :
      Effect s (.psh rt) ((s.stackWrite k (s.reg rt)).setSp (s.sp - 2#16)).advance
  | pop (rd : Reg) (k : Fin 8) (hk : slotOf s.params.stackBase s.sp = some k) :
      Effect s (.pop rd) ((s.setSp (s.sp + 2#16)).writeBack rd (s.stackRead k))

theorem effect_of_jump {s t : State} {i : Instr} {off : Int} (taken : Bool) (hi : i ∈ jumpInstrs off)
    (h : s.jumpIf taken off = t) : Effect s i t := by
  rw [← h, jumpIf_eq]
  exact .jump hi taken

theorem effect_of_exec {i : Instr} {s t : State} (h : exec i s = .next t) : Effect s i t := by
  cases i with
  | psh rt =>
    obtain ⟨hf, rfl⟩ | ⟨k, -, hk, rfl⟩ := exec_psh_eq_next_iff.mp h
    · exact .pshFull rt (of_decide_eq_true hf)
    · exact .psh rt k hk
  | pop rd =>
    obtain ⟨he, rfl⟩ | ⟨k, -, hk, rfl⟩ := exec_pop_eq_next_iff.mp h
    · exact .popEmpty rd (of_decide_eq_true he)
    · exact .pop rd k hk
  | jmp off => exact effect_of_jump true (by simp [jumpInstrs]) (Host.Outcome.next.inj h)
  | jeq off => exact effect_of_jump s.flags.isEqual (by simp [jumpInstrs]) (Host.Outcome.next.inj h)
  | jlt off => exact effect_of_jump s.flags.isLess (by simp [jumpInstrs]) (Host.Outcome.next.inj h)
  | jgt off => exact effect_of_jump s.flags.isGreater (by simp [jumpInstrs]) (Host.Outcome.next.inj h)
  | nop => cases h; exact .nop
  | halt => cases h; exact .halt
  | cmp rs rt => cases h; exact .cmp rs rt
  | str rs rt => cases h; exact .store (.inl ⟨rt, rfl⟩) _
  | stri rs imm => cases h; exact .store (.inr ⟨imm, rfl⟩) _
  | mov rd _ | movi rd _ | ldr rd _ | shr rd _ _ | shl rd _ _ | ror rd _ | rol rd _ => cases h; exact .write rfl _
  | add rd rs rt | sub rd rs rt | mul rd rs rt | and rd rs rt | or rd rs rt | xor rd rs rt =>
    cases h; exact .alu (rs := rs) (rt := rt) (by simp [aluInstrs]) _ _ _
  | not rd rs => cases h; exact .alu (rs := rs) (rt := rs) (by simp [aluInstrs]) _ _ _
  | _ => cases h; exact .unrecognized rfl

/-! ### Registers -/

theorem destReg?_of_mem_aluInstrs {i : Instr} {rd rs rt : Reg} (hi : i ∈ aluInstrs rd rs rt) : i.destReg? = some rd := by
  simp only [aluInstrs, List.mem_cons, List.not_mem_nil, or_false] at hi
  obtain rfl | rfl | rfl | rfl | rfl | rfl | rfl := hi <;> rfl

theorem reg_writeBack_of_ne (s : State) {rd r : Reg} (v : Word) (h : r ≠ rd) : (s.writeBack rd v).reg r = s.reg r :=
  s.reg_setReg_of_ne rd r v h

theorem reg_aluWriteBack_of_ne (s : State) (op : AluOp) {rd r : Reg} (a b : Word) (h : r ≠ rd) :
    (s.aluWriteBack op rd a b).reg r = s.reg r :=
  reg_writeBack_of_ne (s.setFlags _) _ h

/-- Settles O33: in an effect that writes a register the register is the instruction's destination. -/
theorem onlyDestinationRegisterChanges : Obligations.OnlyDestinationRegisterChanges := by
  intro i s t r h hr
  cases effect_of_exec h with
  | write hd v => exact reg_writeBack_of_ne s v fun e => hr (by rw [e, hd])
  | alu hi op a b => exact reg_aluWriteBack_of_ne s op a b fun e => hr (by rw [e, destReg?_of_mem_aluInstrs hi])
  | pop rd k hk => exact reg_writeBack_of_ne _ _ fun e => hr (by rw [e]; rfl)
  | _ => rfl

/-! ### Flags -/

/-- Settles O34: an effect other than that of the ALU and of CMP keeps the flags. -/
theorem flagWritersTable : Obligations.FlagWritersTable := by
  intro i s t h
  cases effect_of_exec h with
  | alu hi op a b => exact .inl ⟨_, _, _, hi⟩
  | cmp rs rt => exact .inr (.inl ⟨rs, rt, rfl, rfl, rfl⟩)
  | _ => exact .inr (.inr rfl)

theorem exec_flags_exclusive {i : Instr} {s t : State} (h : exec i s = .next t)
    (hs : ¬ (s.flags.z = true ∧ s.flags.s = true)) : ¬ (t.flags.z = true ∧ t.flags.s = true) := by
  cases effect_of_exec h with
  | alu _ op a b => exact aluFlags_exclusive op a b
  | cmp rs rt => exact cmpFlags_exclusive _ _ _
  | _ => exact hs

/-! ### The program counter -/

theorem pcAdvanced_of_pc_eq {s t : State} (h : t.pc = s.advance.pc) : PcAdvanced s t := by
  rw [PcAdvanced, h, advance_pc_toNat]

theorem pcJumped_of_pc_eq {s t : State} {off : Int} (h : t.pc = jumpTarget s.pc off) : PcJumped off s t := by
  rw [PcJumped, h, jumpTarget_toNat]

/-- Settles O43: only raising a fault and a taken jump do not advance `pc`. -/
theorem pcCommitRule : Obligations.PcCommitRule := by
  intro i s t h
  cases effect_of_exec h with
  | pshFull | popEmpty => exact .inl (.inl rfl)
  | unrecognized => exact .inl (.inr rfl)
  | jump hi taken =>
    cases taken with
    | true => exact .inr (.inl ⟨_, hi, pcJumped_of_pc_eq rfl⟩)
    | false => exact .inr (.inr (pcAdvanced_of_pc_eq rfl))
  | _ => exact .inr (.inr (pcAdvanced_of_pc_eq rfl))

/-! ### Program memory and the parameters -/

theorem exec_fixed {i : Instr} {s t : State} (h : exec i s = .next t) : t.progMem = s.progMem ∧ t.params = s.params := by
  cases effect_of_exec h <;> exact ⟨rfl, rfl⟩

theorem step_fixed {s t : State} (h : step s = .next t) : t.progMem = s.progMem ∧ t.params = s.params := by
  obtain ⟨-, e⟩ | ⟨-, -, e⟩ | ⟨-, -, e⟩ := step_cases s <;> rw [e] at h
  · cases h; exact ⟨rfl, rfl⟩
  · cases h; exact ⟨rfl, rfl⟩
  · exact exec_fixed h

/-- Settles O38: no step changes program memory or the parameters. -/
theorem programMemoryIsConstant : Obligations.ProgramMemoryIsConstant := fun k _ _ h =>
  runFor_induction (P := fun s t => t.progMem = s.progMem ∧ t.params = s.params) (fun _ => ⟨rfl, rfl⟩)
    (fun _ _ _ h h' => ⟨h'.1.trans h.1, h'.2.trans h.2⟩) (fun _ _ => step_fixed) k h

/-! ### The invariant -/

theorem exec_psh_of_full {s : State} (rt : Reg) (h : s.sp = s.params.stackBase - 16#16) :
    exec (.psh rt) s = .next (s.raise .stackFault) :=
  exec_psh_eq_next_iff.mpr (.inl ⟨decide_eq_true h, rfl⟩)

theorem exec_pop_of_empty {s : State} (rd : Reg) (h : s.sp = s.params.stackBase) :
    exec (.pop rd) s = .next (s.raise .stackFault) :=
  exec_pop_eq_next_iff.mpr (.inl ⟨decide_eq_true h, rfl⟩)

theorem exec_psh_of_depth {s : State} {k : Fin 8} (rt : Reg) (hp : s.params.valid) (h : s.hasDepth k.val) :
    exec (.psh rt) s = .next ((s.stackWrite k (s.reg rt)).setSp (s.sp - 2#16)).advance := by
  change execPsh rt s = _
  rw [execPsh, push_done _ hp h]

theorem exec_pop_of_depth {s : State} {k : Fin 8} (rd : Reg) (h : s.hasDepth (k.val + 1)) :
    exec (.pop rd) s = .next ((s.setSp (s.sp + 2#16)).writeBack rd (s.stackRead k)) := by
  change execPop rd s = _
  rw [execPop, pop_done h]

theorem sp_of_hasDepth_zero {s : State} (h : s.hasDepth 0) : s.sp = s.params.stackBase :=
  BitVec.eq_of_toNat_eq h

theorem sp_of_hasDepth_eight {s : State} (hp : s.params.valid) (h : s.hasDepth 8) : s.sp = s.params.stackBase - 16#16 := by
  refine BitVec.eq_of_toNat_eq ?_
  rw [toNat_sub_sixteen hp.1]
  omega

/-- PSH and POP need a slot, which every stack that is not full or not empty has; all other instructions need nothing. -/
theorem exec_completes (i : Instr) {s : State} (hp : s.params.valid) (hw : s.spInWindow) : Completes (exec i s) := by
  obtain ⟨k, hk⟩ := hw
  cases i with
  | psh rt =>
    cases k using Fin.lastCases with
    | last => exact ⟨_, exec_psh_of_full rt (sp_of_hasDepth_eight hp hk)⟩
    | cast k => exact ⟨_, exec_psh_of_depth rt hp hk⟩
  | pop rd =>
    cases k using Fin.cases with
    | zero => exact ⟨_, exec_pop_of_empty rd (sp_of_hasDepth_zero hk)⟩
    | succ k => exact ⟨_, exec_pop_of_depth rd hk⟩
  | _ => exact ⟨_, rfl⟩

theorem exec_dataMem_wf {i : Instr} {s t : State} (h : exec i s = .next t) (hs : s.dataMem.wf = true) :
    t.dataMem.wf = true := by
  cases effect_of_exec h with
  | store hi v => exact s.dataWrite_wf _ v hs
  | _ => exact hs

theorem exec_inv {i : Instr} {s t : State} (h : exec i s = .next t) (hs : s.Inv) : t.Inv := by
  obtain ⟨hprog, hparams⟩ := exec_fixed h
  exact
    { params_valid := hparams ▸ hs.params_valid
      sp_in_window := exec_spInWindow hs.sp_in_window h
      prog_wf := hprog ▸ hs.prog_wf
      data_wf := exec_dataMem_wf h hs.data_wf
      lr_zero := (exec_lr h).trans hs.lr_zero
      flags_exclusive := exec_flags_exclusive h hs.flags_exclusive }

/-- Settles O54: a slot for PSH and POP from the window of `sp`, then field by field. -/
theorem everyInstructionCompletesAndKeepsInvariant : Obligations.EveryInstructionCompletesAndKeepsInvariant := by
  intro i s hs
  obtain ⟨t, h⟩ := exec_completes i hs.params_valid hs.sp_in_window
  exact ⟨t, h, exec_inv h hs⟩

theorem haltNormal_inv {s : State} (hs : s.Inv) : s.haltNormal.Inv :=
  ⟨hs.params_valid, hs.sp_in_window, hs.prog_wf, hs.data_wf, hs.lr_zero, hs.flags_exclusive⟩

/-- Settles O55: a step is the identity, a halt or an instruction. -/
theorem stepKeepsInvariant : Obligations.StepKeepsInvariant := by
  intro s hs
  obtain ⟨-, e⟩ | ⟨-, -, e⟩ | ⟨-, -, e⟩ := step_cases s <;> rw [e]
  · exact ⟨s, rfl, hs⟩
  · exact ⟨_, rfl, haltNormal_inv hs⟩
  · exact everyInstructionCompletesAndKeepsInvariant _ s hs

theorem runFor_of_inv (k : Nat) {s : State} (hs : s.Inv) : ∃ t, runFor k s = .next t ∧ t.Inv := by
  induction k generalizing s with
  | zero => exact ⟨s, rfl, hs⟩
  | succ k ih =>
    obtain ⟨u, hu, hi⟩ := stepKeepsInvariant s hs
    rw [runFor_succ_of_step hu]
    exact ih hi

theorem resetWith_inv {p : Params} (hp : p.valid) : (State.resetWith p).Inv where
  params_valid := hp
  sp_in_window := ⟨0, rfl⟩
  prog_wf := rfl
  data_wf := rfl
  lr_zero := rfl
  flags_exclusive := by simp [State.resetWith]

/-- Loading changes program memory alone, and keeps its canonical form. -/
theorem boot_inv {p : Params} (image : List (Word × Word)) (hp : p.valid) : (State.boot p image).Inv := by
  obtain ⟨m, hm, e⟩ := loadImage_spec (State.resetWith p) image rfl
  rw [State.boot, e]
  exact { resetWith_inv hp with prog_wf := hm }

theorem boot_params (p : Params) (image : List (Word × Word)) : (State.boot p image).params = p := by
  obtain ⟨m, -, e⟩ := loadImage_spec (State.resetWith p) image rfl
  rw [State.boot, e]
  rfl

/-- Settles O53: the invariant holds at reset, and loading keeps it. -/
theorem invariantHoldsAtBoot : Obligations.InvariantHoldsAtBoot :=
  ⟨fun _ image hp => boot_inv image hp, resetWith_inv resetParams_valid⟩

/-- Settles O56: the invariant holds at boot and every step keeps it, and no step changes STACK_BASE. -/
theorem everyBootedRunStaysInInvariant : Obligations.EveryBootedRunStaysInInvariant := by
  intro p image k hp
  obtain ⟨t, h, ht⟩ := runFor_of_inv k (boot_inv image hp)
  obtain ⟨-, hparams⟩ := programMemoryIsConstant k _ t h
  obtain ⟨n, hn⟩ := ht.sp_in_window
  rw [State.hasDepth, hparams, boot_params] at hn
  exact ⟨t, h, ht, n, hn⟩

/-! ### The step by the state it starts from -/

theorem step_of_halted {s : State} (h : s.runState ≠ .running) : step s = .next s := by
  obtain ⟨-, e⟩ | ⟨hr, -, -⟩ | ⟨hr, -, -⟩ := step_cases s
  · exact e
  · exact absurd hr h
  · exact absurd hr h

theorem step_at_sentinel {s : State} (h : s.runState = .running) (hp : s.params.pcEnd ≤ s.pc.toNat) :
    step s = .next s.haltNormal := by
  obtain ⟨hr, -⟩ | ⟨-, -, e⟩ | ⟨-, hlt, -⟩ := step_cases s
  · exact absurd h hr
  · exact e
  · exact absurd hp (Nat.not_le.mpr hlt)

theorem step_below_sentinel {s : State} (h : s.runState = .running) (hp : s.pc.toNat < s.params.pcEnd) :
    step s = exec (decode s.fetch) s := by
  obtain ⟨hr, -⟩ | ⟨-, hle, -⟩ | ⟨-, -, e⟩ := step_cases s
  · exact absurd h hr
  · exact absurd hp (Nat.not_lt.mpr hle)
  · exact e

/-! ### Another base, over a whole run -/

theorem step_rebase {s t : State} {base : Word} (hb : 16 ≤ base.toNat) (h : step s = .next t) :
    step (s.rebase base) = .next (t.rebase base) := by
  obtain ⟨hr, e⟩ | ⟨hr, hp, e⟩ | ⟨hr, hp, e⟩ := step_cases s <;> rw [e] at h
  · cases h; exact step_of_halted hr
  · cases h; exact step_at_sentinel hr hp
  · exact (step_below_sentinel (s := s.rebase base) hr hp).trans (exec_rebase hb h)

/-- Settles O57: every step moves with the base. -/
theorem stackBaseIsUnobservable : Obligations.StackBaseIsUnobservable := by
  rintro k s t base - hb h
  induction k generalizing s with
  | zero => cases h; rfl
  | succ k ih =>
    cases e : step s with
    | next u =>
      rw [runFor_succ_of_step e] at h
      rw [runFor_succ_of_step (step_rebase hb e)]
      exact ih u h
    | fault f => rw [runFor_succ_of_fault e] at h; cases h
    | refused r => rw [runFor_succ_of_refused e] at h; cases h

/-! ### Halting and faulting -/

theorem runFor_of_halted {s : State} (h : s.runState ≠ .running) (k : Nat) : runFor k s = .next s := by
  induction k with
  | zero => rfl
  | succ k ih => rw [runFor_succ_of_step (step_of_halted h), ih]

/-- Settles O9: what decides the kind of a step does not depend on program memory. -/
theorem stepRunsFetchedInstruction : Obligations.StepRunsFetchedInstruction := by
  refine ⟨fun s hr hp => step_below_sentinel hr hp, fun s m h => ?_⟩
  by_cases hr : s.runState = .running
  · have hp := h.resolve_left (not_not.mpr hr)
    exact ⟨_, step_at_sentinel hr hp, step_at_sentinel (s := { s with progMem := m }) hr hp⟩
  · exact ⟨s, step_of_halted hr, step_of_halted (s := { s with progMem := m }) hr⟩

/-- Settles O11: a step of a halted state is the identity. -/
theorem haltedStatesAreTerminal : Obligations.HaltedStatesAreTerminal := by
  refine fun s k h => ⟨runFor_of_halted h k, ?_⟩
  unfold State.exitStatusIsZero?
  cases hr : s.runState with
  | running => exact absurd hr h
  | haltedNormal | haltedFault => rfl

theorem exec_of_unrecognizedOpcode? {i : Instr} {op : Nat} (h : i.unrecognizedOpcode? = some op) (s : State) :
    exec i s = .next (s.raise .unrecognizedOpcode) := by
  cases i <;> cases h <;> rfl

/-- Settles O14: the word 0x3800 decodes to Unrecognized(7). -/
theorem unrecognizedRaisesUnrecognizedOpcode : Obligations.UnrecognizedRaisesUnrecognizedOpcode := by
  refine ⟨fun i op s h => exec_of_unrecognizedOpcode? h s, fun s hr hp hw => ⟨?_, rfl⟩⟩
  rw [step_below_sentinel hr hp, State.fetch, hw]
  exact exec_of_unrecognizedOpcode? (op := 7) rfl s

/-- An instruction that enters Halted-Fault raises, and keeps everything else. -/
theorem exec_eq_raise_of_fault {i : Instr} {s t : State} {c : FaultCause} (hs : s.runState = .running)
    (h : exec i s = .next t) (ht : t.runState = .haltedFault c) : t = s.raise c := by
  cases effect_of_exec h with
  | pshFull | popEmpty | unrecognized => cases ht; rfl
  | halt => cases ht
  | _ => cases hs.symm.trans ht

/-- Settles O13: a step of a running state that faults is an instruction that raises. -/
theorem faultsArePrecise : Obligations.FaultsArePrecise := by
  intro s t c hs h ht
  obtain ⟨hr, -⟩ | ⟨-, -, e⟩ | ⟨-, -, e⟩ := step_cases s
  · exact absurd hs hr
  · rw [e] at h; cases h; cases ht
  · exact exec_eq_raise_of_fault hs (e ▸ h) ht

/-! ### The transitions of the run state -/

section Transitions

variable {i : Instr} {s t : State} (hs : s.runState = .running) (h : exec i s = .next t)
include hs h

theorem exec_haltedNormal_iff : t.runState = .haltedNormal ↔ i = .halt := by
  refine ⟨fun ht => ?_, fun hi => ?_⟩
  · cases effect_of_exec h with
    | halt => rfl
    | pshFull | popEmpty | unrecognized => cases ht
    | _ => cases hs.symm.trans ht
  · subst hi; cases h; rfl

theorem exec_unrecognizedOpcode_iff :
    t.runState = .haltedFault .unrecognizedOpcode ↔ i.unrecognizedOpcode? ≠ none := by
  refine ⟨fun ht => ?_, fun hi => ?_⟩
  · cases effect_of_exec h with
    | unrecognized hop => rw [hop]; exact Option.some_ne_none _
    | pshFull | popEmpty | halt => cases ht
    | _ => cases hs.symm.trans ht
  · obtain ⟨op, hop⟩ := Option.ne_none_iff_exists'.mp hi
    rw [exec_of_unrecognizedOpcode? hop] at h
    cases h; rfl

theorem exec_stackFault_iff :
    t.runState = .haltedFault .stackFault ↔
      (∃ rt, i = .psh rt) ∧ s.sp = s.params.stackBase - 16 ∨ (∃ rd, i = .pop rd) ∧ s.sp = s.params.stackBase := by
  refine ⟨fun ht => ?_, ?_⟩
  · cases effect_of_exec h with
    | pshFull rt hsp => exact .inl ⟨⟨rt, rfl⟩, hsp⟩
    | popEmpty rd hsp => exact .inr ⟨⟨rd, rfl⟩, hsp⟩
    | unrecognized | halt => cases ht
    | _ => cases hs.symm.trans ht
  · rintro (⟨⟨rt, rfl⟩, hsp⟩ | ⟨⟨rd, rfl⟩, hsp⟩)
    · rw [exec_psh_of_full rt hsp] at h
      cases h; rfl
    · rw [exec_pop_of_empty rd hsp] at h
      cases h; rfl

end Transitions

/-- Settles O12: at the sentinel every event but the halt is excluded; below it the events are those of the instruction. -/
theorem runStateTransitions : Obligations.RunStateTransitions := by
  intro s t hs h
  obtain ⟨hr, -⟩ | ⟨-, hp, e⟩ | ⟨-, hp, e⟩ := step_cases s
  · exact absurd hs hr
  · rw [e] at h
    cases h
    simp [hp, Nat.not_lt.mpr hp]
  · rw [e] at h
    simp [hp, Nat.not_le.mpr hp, exec_haltedNormal_iff hs h, exec_unrecognizedOpcode_iff hs h, exec_stackFault_iff hs h]

/-! ### The sentinel and blank memory -/

/-- A running step on a blank slot below the sentinel is a NOP. -/
theorem step_of_blank {s : State} (hr : s.runState = .running) (hp : s.pc.toNat < s.params.pcEnd)
    (hw : s.progRead s.pc = 0) : step s = .next s.advance := by
  rw [step_below_sentinel hr hp, State.fetch, hw]
  rfl

theorem runFor_of_blank {s : State} (k : Nat) (hr : s.runState = .running)
    (hblank : ∀ j, j < k → s.pc.toNat + 2 * j < s.params.pcEnd ∧ s.progRead (BitVec.ofNat 16 (s.pc.toNat + 2 * j)) = 0)
    (hend : s.params.pcEnd ≤ s.pc.toNat + 2 * k) (hmax : s.pc.toNat + 2 * k ≤ 0xFFFF) :
    runFor (k + 1) s = .next { s with pc := BitVec.ofNat 16 (s.pc.toNat + 2 * k), runState := .haltedNormal } := by
  induction k generalizing s with
  | zero =>
    rw [runFor_succ_of_step (step_at_sentinel hr hend)]
    simp [runFor_zero, State.haltNormal, State.setRunState]
  | succ k ih =>
    obtain ⟨hp, hw⟩ := hblank 0 (Nat.succ_pos k)
    have hpc : s.advance.pc.toNat = s.pc.toNat + 2 := by
      rw [advance_pc_toNat]
      omega
    have hnext : ∀ j, s.advance.pc.toNat + 2 * j = s.pc.toNat + 2 * (j + 1) := fun j => by omega
    rw [runFor_succ_of_step (step_of_blank hr hp (by simpa using hw)), ih (s := s.advance) hr, hnext]
    · rfl
    · intro j hj
      rw [hnext]
      exact hblank (j + 1) (Nat.succ_lt_succ hj)
    · rwa [hnext]
    · rwa [hnext]

/-- Settles O10: the sentinel test by the value of PC_END, blank memory by induction on the number of NOPs. -/
theorem sentinelHaltsWithoutFetch : Obligations.SentinelHaltsWithoutFetch := by
  refine ⟨fun s hr hp => ⟨step_at_sentinel hr hp, rfl⟩, fun s hr hend => ?_, fun s hr hend hpc hw => ?_,
    fun s hr hend => step_at_sentinel hr (hend ▸ Nat.zero_le _), fun s k => runFor_of_blank k⟩
  · exact step_below_sentinel hr (hend ▸ s.pc.isLt)
  · rw [step_of_blank hr (hend ▸ s.pc.isLt) hw, State.advance, hpc]
    rfl

end Sys2Proof.Machine
end


section
/-! What instructions do not read: data memory outside LDR, program memory, C and Ov, the run state (10_state.md sections 4
to 6). -/

namespace Sys2Proof.Machine

/-- An update that leaves `pc` alone commutes with a jump on the same condition. -/
theorem next_jumpIf_comm (s : State) (g : State → State) (hpc : (g s).pc = s.pc)
    (hg : ∀ v, (g s).setPc v = g (s.setPc v)) (b : Bool) (off : Int) :
    (.next ((g s).jumpIf b off) : Outcome) = .next (g (s.jumpIf b off)) := by
  rw [jumpIf_eq, jumpIf_eq, hg, State.advance_pc, State.advance_pc, hpc]

@[simp] theorem jumpIf_flags (s : State) (b : Bool) (off : Int) : (s.jumpIf b off).flags = s.flags := by
  rw [jumpIf_eq, State.setPc_flags]

@[simp] theorem jumpIf_runState (s : State) (b : Bool) (off : Int) : (s.jumpIf b off).runState = s.runState := by
  rw [jumpIf_eq, State.setPc_runState]

/-! ### Data memory -/

/-- The instruction is LDR, STR or STRI, which alone reach data memory (rule R22). -/
def usesData : Instr → Bool
  | .ldr _ _ | .str _ _ | .stri _ _ => true
  | _ => false

theorem usesData_eq_false {i : Instr} (h1 : ∀ rd rs, i ≠ .ldr rd rs) (h2 : ∀ rs rt, i ≠ .str rs rt)
    (h3 : ∀ rs imm, i ≠ .stri rs imm) : usesData i = false := by
  cases i with
  | ldr rd rs => exact absurd rfl (h1 rd rs)
  | str rs rt => exact absurd rfl (h2 rs rt)
  | stri rs imm => exact absurd rfl (h3 rs imm)
  | _ => rfl

/-- `s` with the data memory of `h`. -/
def State.moveDataMem (s h : State) : State := { s with dataMem := h.dataMem }

theorem blind_moveDataMem {i : Instr} (hi : usesData i = false) : Blind i State.moveDataMem where
  move_self _ := rfl
  exec_move {s t} h e := by
    cases i with
    | ldr rd rs | str rs rt | stri rs imm => cases hi
    | psh rt => exact (blind_psh rt).exec_update e (fun u => u.moveDataMem h) fun _ => rfl
    | pop rd => exact (blind_pop rd).exec_update e (fun u => u.moveDataMem h) fun _ => rfl
    | jmp off | jeq off | jlt off | jgt off =>
      cases e
      exact next_jumpIf_comm s (fun u => u.moveDataMem h) rfl (fun _ => rfl) _ off
    | _ => cases e; rfl

/-- A canonical memory lists an address with a word exactly if the word is nonzero and stands there. -/
theorem Memory.mem_iff_of_wfFrom {m : Memory} {low a : Nat} {v : Word} (h : Memory.wfFrom low m = true) :
    (a, v) ∈ m ↔ v ≠ 0 ∧ m.read a = v := by
  induction m generalizing low with
  | nil =>
    have : Memory.read [] a = 0 := rfl
    rw [this]
    exact ⟨fun h => absurd h List.not_mem_nil, fun h => absurd h.2.symm h.1⟩
  | cons e m ih =>
    obtain ⟨b, w⟩ := e
    have hw : w ≠ 0 := (Memory.read_head h).1
    simp only [Memory.wfFrom, Bool.and_eq_true, decide_eq_true_eq] at h
    obtain ⟨-, hm⟩ := h
    rw [List.mem_cons, ih hm, Prod.mk.injEq, Memory.read]
    split_ifs with hab
    · subst hab
      have hbelow : Memory.read m a = 0 := Memory.read_below hm (Nat.lt_succ_self a)
      rw [hbelow]
      constructor
      · rintro (⟨-, rfl⟩ | ⟨hv, hv'⟩)
        · exact ⟨hw, rfl⟩
        · exact absurd hv'.symm hv
      · exact fun ⟨_, e⟩ => .inl ⟨rfl, e.symm⟩
    · exact or_iff_right fun ⟨e, _⟩ => hab e

theorem loadImage_dataMem (s : State) (image : List (Word × Word)) : (s.loadImage image).dataMem = s.dataMem := by
  induction image generalizing s with
  | nil => rfl
  | cons d image ih => rw [loadImage_cons, ih, State.load_dataMem]

/-- Settles O35: LDR, STR and STRI by what they do, the others by their blindness to data memory. -/
theorem dataMemoryReach : Obligations.DataMemoryReach := by
  refine ⟨fun s rd rs => ⟨_, rfl, State.reg_setReg_same _ _ _, rfl⟩, fun s rs rt => ⟨_, rfl, rfl, fun _ => rfl⟩,
    fun s rs imm => ⟨_, rfl, rfl, fun _ => rfl⟩, fun i s t h hldr hstr hstri => ?others,
    fun s a b v hb => ⟨s.dataRead_dataWrite_same a v, s.dataRead_dataWrite_of_ne a b v hb⟩, loadImage_dataMem,
    fun s r hwf h a v => ?report⟩
  case others =>
    have hb := blind_moveDataMem (usesData_eq_false hldr hstr hstri)
    exact ⟨by rw [← hb.move_before h]; rfl, fun m => hb.exec_move { s with dataMem := m } h⟩
  case report =>
    rw [eq_report_of_observe h]
    exact Memory.mem_iff_of_wfFrom hwf

/-! ### Program memory -/

/-- Settles O37: every instruction is blind to program memory. -/
theorem noInstructionReachesProgramMemory : Obligations.NoInstructionReachesProgramMemory := by
  intro i s t m h
  refine ⟨(exec_fixed h).1, ?_⟩
  obtain hs | hn := psh_or_pop_or_not_usesStack i
  · exact (blind_of_psh_or_pop hs).exec_update h (fun u => { u with progMem := m }) fun _ => rfl
  · exact (blind_of_not_usesStack hn).exec_update h (fun u => { u with progMem := m }) fun _ => rfl

/-! ### C, Ov and the run state -/

/-- `s` with other values of C and Ov. -/
def State.withCarryOverflow (s : State) (c ov : Bool) : State := { s with flags := { s.flags with c := c, ov := ov } }

/-- Settles O41: the ALU overwrites the flags, every other instruction carries C and Ov over. -/
theorem carryAndOverflowAreNotRead : Obligations.CarryAndOverflowAreNotRead := by
  intro i s t c ov h
  cases i with
  | add _ _ _ | sub _ _ _ | mul _ _ _ | and _ _ _ | or _ _ _ | not _ _ | xor _ _ _ => exact .inl h
  | psh rt =>
    rw [exec_psh_eq_next_iff, exec_psh_eq_next_iff]
    obtain ⟨hf, rfl⟩ | ⟨k, hf, hk, rfl⟩ := exec_psh_eq_next_iff.mp h
    · exact .inr ⟨rfl, rfl, .inl ⟨hf, rfl⟩⟩
    · exact .inr ⟨rfl, rfl, .inr ⟨k, hf, hk, rfl⟩⟩
  | pop rd =>
    rw [exec_pop_eq_next_iff, exec_pop_eq_next_iff]
    obtain ⟨he, rfl⟩ | ⟨k, he, hk, rfl⟩ := exec_pop_eq_next_iff.mp h
    · exact .inr ⟨rfl, rfl, .inl ⟨he, rfl⟩⟩
    · exact .inr ⟨rfl, rfl, .inr ⟨k, he, hk, rfl⟩⟩
  | jmp off | jeq off | jlt off | jgt off =>
    cases h
    refine .inr ⟨by rw [jumpIf_flags], by rw [jumpIf_flags], ?_⟩
    exact next_jumpIf_comm s (fun u => u.withCarryOverflow c ov) rfl (fun _ => rfl) _ off
  | _ => cases h; exact .inr ⟨rfl, rfl, rfl⟩

/-- Settles O42: HALT and a raised fault overwrite the run state, everything else carries it over. -/
theorem runStateIsNotReadable : Obligations.RunStateIsNotReadable := by
  intro i s t r h
  cases i with
  | psh rt =>
    rw [exec_psh_eq_next_iff, exec_psh_eq_next_iff]
    obtain ⟨hf, rfl⟩ | ⟨k, hf, hk, rfl⟩ := exec_psh_eq_next_iff.mp h
    · exact .inl (.inl ⟨hf, rfl⟩)
    · exact .inr ⟨rfl, .inr ⟨k, hf, hk, rfl⟩⟩
  | pop rd =>
    rw [exec_pop_eq_next_iff, exec_pop_eq_next_iff]
    obtain ⟨he, rfl⟩ | ⟨k, he, hk, rfl⟩ := exec_pop_eq_next_iff.mp h
    · exact .inl (.inl ⟨he, rfl⟩)
    · exact .inr ⟨rfl, .inr ⟨k, he, hk, rfl⟩⟩
  | jmp off | jeq off | jlt off | jgt off =>
    cases h
    exact .inr ⟨jumpIf_runState _ _ _, next_jumpIf_comm s (fun u => u.setRunState r) rfl (fun _ => rfl) _ off⟩
  | nop | cmp _ _ | mov _ _ | movi _ _ | str _ _ | stri _ _ | ldr _ _ | add _ _ _ | sub _ _ _ | mul _ _ _ | and _ _ _
  | or _ _ _ | not _ _ | xor _ _ _ | shr _ _ _ | shl _ _ _ | ror _ _ | rol _ _ => cases h; exact .inr ⟨rfl, rfl⟩
  | _ => exact .inl h

end Sys2Proof.Machine
end


section
/-! The stack: what a PSH and a POP that complete do, and sequences of them (20_memory.md section 5, 40_stack_compare.md). -/

namespace Sys2Proof.Machine

/-! ### One PSH, one POP -/

theorem hasDepth_sub_two {s : State} {k : Fin 8} (hp : s.params.valid) (h : s.hasDepth k.val) :
    (s.sp - 2#16).toNat + 2 * (k.val + 1) = s.params.stackBase.toNat := by
  have hb := hp.1
  rw [toNat_sub_two (by omega)]
  omega

theorem hasDepth_add_two {s : State} {k : Fin 8} (h : s.hasDepth (k.val + 1)) :
    (s.sp + 2#16).toNat + 2 * k.val = s.params.stackBase.toNat := by
  rw [toNat_add_two (by omega)]
  omega

/-- Settles O17: the stack has a slot, and the next state is read off. -/
theorem pshStoresInNextSlot : Obligations.PshStoresInNextSlot := fun s rt k hp hk =>
  ⟨_, exec_psh_of_depth rt hp hk, s.stackRead_stackWrite_same k _, fun j => s.stackRead_stackWrite_of_ne k j _,
    hasDepth_sub_two hp hk, advance_pc_toNat _, fun _ => rfl, rfl, rfl, fun _ => rfl, rfl, fun _ => rfl, rfl⟩

/-- Settles O18: the stack has a slot, and the next state is read off. -/
theorem popLoadsFromTopSlot : Obligations.PopLoadsFromTopSlot := fun _ rd _ _ hk =>
  ⟨_, exec_pop_of_depth rd hk, State.reg_setReg_same _ rd _, fun _ => reg_writeBack_of_ne _ _,
    hasDepth_add_two hk, fun _ => rfl, advance_pc_toNat _, rfl, rfl, fun _ => rfl, rfl, fun _ => rfl, rfl⟩

/-! ### The words a stack holds -/

/-- The slots from `k` up hold the listed words, that of the top of the stack first. -/
def SlotsHold (s : State) (k : Nat) : List Word → Prop
  | [] => True
  | v :: vs => (∀ j : Fin 8, j.val = k + vs.length → s.stackRead j = v) ∧ SlotsHold s k vs

theorem SlotsHold.of_same_below {s t : State} {k : Nat} {vs : List Word} (h : SlotsHold s k vs)
    (hst : ∀ j : Fin 8, j.val < k + vs.length → t.stackRead j = s.stackRead j) : SlotsHold t k vs := by
  induction vs with
  | nil => trivial
  | cons v vs ih =>
    obtain ⟨hv, hvs⟩ := h
    rw [List.length_cons] at hst
    exact ⟨fun j hj => (hst j (by omega)).trans (hv j hj), ih hvs fun j hj => hst j (by omega)⟩

/-- A running machine whose stack holds the listed words above `k` others. -/
structure StackHolds (s : State) (k : Nat) (vs : List Word) : Prop where
  running : s.runState = .running
  valid : s.params.valid
  fits : k + vs.length ≤ 8
  depth : s.hasDepth (k + vs.length)
  slots : SlotsHold s k vs

theorem StackHolds.push {s : State} {k : Nat} {vs : List Word} (h : StackHolds s k vs) (hroom : k + vs.length < 8)
    (r : Reg) :
    ∃ t, exec (.psh r) s = .next t ∧ StackHolds t k (s.reg r :: vs) ∧ t.reg = s.reg ∧ t.params = s.params := by
  obtain ⟨t, ht, htop, hbut, hdepth, -, hregs, -, hrun, -, -, -, hparams⟩ :=
    pshStoresInNextSlot s r ⟨k + vs.length, hroom⟩ h.valid h.depth
  have hslots : SlotsHold t k (s.reg r :: vs) :=
    ⟨fun j hj => (congrArg t.stackRead (Fin.ext hj)).trans htop,
      h.slots.of_same_below fun j hj => hbut j (Fin.ne_of_lt hj)⟩
  exact ⟨t, ht, ⟨hrun.trans h.running, hparams ▸ h.valid, hroom, hdepth, hslots⟩, funext hregs, hparams⟩

theorem StackHolds.pop {s : State} {k : Nat} {v : Word} {vs : List Word} (h : StackHolds s k (v :: vs)) (rd : Reg) :
    ∃ t, exec (.pop rd) s = .next t ∧ t.reg rd = v ∧ StackHolds t k vs ∧ t.params = s.params := by
  obtain ⟨hv, hvs⟩ := h.slots
  have hroom : k + vs.length < 8 := h.fits
  obtain ⟨t, ht, hreg, -, hdepth, hsame, -, -, hrun, -, -, -, hparams⟩ :=
    popLoadsFromTopSlot s rd ⟨k + vs.length, hroom⟩ h.valid h.depth
  exact ⟨t, ht, hreg.trans (hv _ rfl),
    ⟨hrun.trans h.running, hparams ▸ h.valid, hroom.le, hdepth, hvs.of_same_below fun j _ => hsame j⟩, hparams⟩

/-! ### Sequences of PSH and POP -/

theorem halted_eq_false {s : State} (h : s.runState = .running) : s.halted = false :=
  decide_eq_false (not_not.mpr h)

theorem pushRegs_cons {r : Reg} {s t : State} (h : exec (.psh r) s = .next t) (hr : t.runState = .running)
    (rs : List Reg) : pushRegs (r :: rs) s = pushRegs rs t := by
  simp [pushRegs, h, halted_eq_false hr]

theorem popValues_succ {rd : Reg} {n : Nat} {s t u : State} {vs : List Word} (h : exec (.pop rd) s = .next t)
    (hr : t.runState = .running) (hn : popValues rd n t = some (vs, u)) :
    popValues rd (n + 1) s = some (t.reg rd :: vs, u) := by
  simp [popValues, h, halted_eq_false hr, hn]

theorem StackHolds.pushRegs {s : State} {k : Nat} {vs : List Word} (h : StackHolds s k vs) (regs : List Reg)
    (hroom : k + vs.length + regs.length ≤ 8) :
    ∃ t, pushRegs regs s = some t ∧ StackHolds t k ((regs.map s.reg).reverse ++ vs) ∧ t.reg = s.reg ∧
      t.params = s.params := by
  induction regs generalizing s vs with
  | nil => exact ⟨s, rfl, h, rfl, rfl⟩
  | cons r rs ih =>
    rw [List.length_cons] at hroom
    obtain ⟨t, ht, hold, hreg, hparams⟩ := h.push (by omega) r
    obtain ⟨u, hu, hold', hreg', hparams'⟩ := ih hold (by rw [List.length_cons]; omega)
    refine ⟨u, (pushRegs_cons ht hold.running rs).trans hu, ?_, hreg'.trans hreg, hparams'.trans hparams⟩
    rw [hreg] at hold'
    simpa using hold'

theorem StackHolds.popValues {s : State} {k : Nat} {vs : List Word} (h : StackHolds s k vs) (rd : Reg) :
    ∃ u, popValues rd vs.length s = some (vs, u) ∧ u.hasDepth k ∧ u.params = s.params := by
  induction vs generalizing s with
  | nil => exact ⟨s, rfl, h.depth, rfl⟩
  | cons v vs ih =>
    obtain ⟨t, ht, hreg, hold, hparams⟩ := h.pop rd
    obtain ⟨u, hu, hdepth, hparams'⟩ := ih hold
    exact ⟨u, hreg ▸ popValues_succ ht hold.running hu, hdepth, hparams'.trans hparams⟩

theorem sp_eq_of_hasDepth {s t : State} {k : Nat} (hs : s.hasDepth k) (ht : t.hasDepth k) (hp : t.params = s.params) :
    t.sp = s.sp := by
  rw [State.hasDepth, hp] at ht
  exact BitVec.eq_of_toNat_eq (Nat.add_right_cancel (ht.trans hs.symm))

/-- Settles O49: the pushes put the values above what the stack held, last on top, and the pops take them from there. -/
theorem stackIsLifo : Obligations.StackIsLifo := by
  intro s regs rd k hr hp hk hroom
  have hs : StackHolds s k [] := ⟨hr, hp, by rw [List.length_nil]; omega, hk, trivial⟩
  obtain ⟨t, ht, hold, -, hparams⟩ := hs.pushRegs regs hroom
  rw [List.append_nil] at hold
  obtain ⟨u, hu, hdepth, hparams'⟩ := hold.popValues rd
  have hlen : (regs.map s.reg).reverse.length = regs.length := by simp
  exact ⟨t, u, ht, hlen ▸ hold.depth, hlen ▸ hu, sp_eq_of_hasDepth hk hdepth (hparams'.trans hparams)⟩

/-- Eight pushes on an empty stack fill it. -/
theorem pushRegs_eight {s : State} (rt : Reg) (hr : s.runState = .running) (hp : s.params.valid) (hk : s.hasDepth 0) :
    ∃ t, pushRegs (List.replicate 8 rt) s = some t ∧ SameRegs s t ∧ t.sp = t.params.stackBase - 16#16 := by
  have hs : StackHolds s 0 [] := ⟨hr, hp, Nat.zero_le 8, hk, trivial⟩
  obtain ⟨t, ht, hold, hreg, -⟩ := hs.pushRegs (List.replicate 8 rt) le_rfl
  exact ⟨t, ht, congrFun hreg, sp_of_hasDepth_eight hold.valid hold.depth⟩

/-- Settles O15: the fault of PSH and POP by their cases, the ninth push by eight pushes that fill the stack. -/
theorem stackFaultOnFullOrEmptyStack : Obligations.StackFaultOnFullOrEmptyStack := by
  refine ⟨fun s rt h => exec_psh_of_full rt h, fun s rd h => exec_pop_of_empty rd h, fun i s t hs h ht => ?only,
    fun s k h => runFor_of_halted (by simp [h]) k, fun s rt hr hp hk => ?ninth⟩
  case only =>
    obtain ⟨⟨rt, hi⟩, hsp⟩ | ⟨⟨rd, hi⟩, hsp⟩ := (exec_stackFault_iff hs h).mp ht
    · exact .inl ⟨rt, hi, hsp⟩
    · exact .inr ⟨rd, hi, hsp⟩
  case ninth =>
    obtain ⟨t, ht, hregs, hsp⟩ := pushRegs_eight rt hr hp hk
    exact ⟨t, ht, hregs, exec_psh_of_full rt hsp, rfl⟩

end Sys2Proof.Machine
end


section
/-! The results and frames of the instructions outside the stack: jumps, moves and memory, the ALU, shifts and rotations,
NOP, CMP and HALT (40_stack_compare.md to 45_halt.md). -/

namespace Sys2Proof.Machine

/-! ### Words of a pattern, whatever their ignored bits -/

theorem decode_nop_pattern (x : Fin 512) : decode (BitVec.ofNat 16 (4 * x.val)) = .nop := by
  have e : BitVec.ofNat 16 (4 * x.val) = packWord 0 (x.val / 64) (x.val / 8 % 8) (x.val % 8) 0 :=
    congrArg (BitVec.ofNat 16) (by omega)
  have h : x.val / 64 < 8 := by omega
  simp [e, decode, decodeGroup0, opcodeOf_packWord, selOf_packWord, h, Nat.mod_lt]

theorem decode_cmp_pattern (x : Fin 8) (rs rt : Reg) :
    decode (BitVec.ofNat 16 (256 * x.val + 32 * rs.val + 4 * rt.val + 3)) = .cmp rs rt := by
  have e : BitVec.ofNat 16 (256 * x.val + 32 * rs.val + 4 * rt.val + 3) = packWord 0 x rs rt 3 :=
    congrArg (BitVec.ofNat 16) (by omega)
  simp [e, decode, decodeGroup0, opcodeOf_packWord, selOf_packWord, regField_packWord_rs, regField_packWord_rt]

theorem decode_movi_pattern (rd : Reg) (imm : Fin 256) :
    decode (BitVec.ofNat 16 (0x1800 + 256 * rd.val + imm.val)) = .movi rd (BitVec.ofNat 16 imm.val) := by
  have e : BitVec.ofNat 16 (0x1800 + 256 * rd.val + imm.val) = packLow5 3 rd (imm.val / 32) (imm.val % 32) :=
    congrArg (BitVec.ofNat 16) (by omega)
  have h : imm.val / 32 < 8 := by omega
  simp [e, decode, opcodeOf_packLow5, regField_packLow5_hi, bits_imm_packLow5, h, Nat.mod_lt, Nat.div_add_mod', zext8]

theorem decode_add_pattern (rd rs rt : Reg) (x : Fin 4) :
    decode (BitVec.ofNat 16 (0x4000 + 256 * rd.val + 32 * rs.val + 4 * rt.val + x.val)) = .add rd rs rt := by
  have e : BitVec.ofNat 16 (0x4000 + 256 * rd.val + 32 * rs.val + 4 * rt.val + x.val) = packWord 8 rd rs rt x :=
    congrArg (BitVec.ofNat 16) (by omega)
  simp [e, decode, opcodeOf_packWord, regField_packWord_rd, regField_packWord_rs, regField_packWord_rt]

theorem decode_halt_pattern (x : Fin 2048) : decode (BitVec.ofNat 16 (0xF800 + x.val)) = .halt := by
  have e : BitVec.ofNat 16 (0xF800 + x.val) = packWord 31 (x.val / 256) (x.val / 32 % 8) (x.val / 4 % 8) (x.val % 4) :=
    congrArg (BitVec.ofNat 16) (by omega)
  have h : x.val / 256 < 8 := by omega
  simp [e, decode, opcodeOf_packWord, h, Nat.mod_lt]

/-! ### NOP, CMP and HALT -/

/-- Settles O16: the pattern packs opcode 0 and selector 0, and NOP is the default commit. -/
theorem nopOnlyAdvancesPc : Obligations.NopOnlyAdvancesPc :=
  ⟨decode_nop_pattern, fun s => ⟨s.advance, rfl, advance_pc_toNat s, rfl⟩⟩

/-- Settles O19: the pattern packs opcode 0 and selector 3, and the flags are those of `cmpFlags`. -/
theorem cmpSetsZeroAndSign : Obligations.CmpSetsZeroAndSign := by
  refine ⟨decode_cmp_pattern, fun s rs rt => ⟨_, rfl, ?zero, decide_eq_true_iff, rfl, rfl, cmpFlags_exclusive _ _ _,
    advance_pc_toNat _, rfl⟩⟩
  case zero => exact decide_eq_true_iff.trans BitVec.toNat_inj.symm

/-- Settles O32: the pattern packs opcode 31, and the state after HALT is terminal. -/
theorem haltCommitsPcAndEndsRun : Obligations.HaltCommitsPcAndEndsRun :=
  ⟨decode_halt_pattern, rfl, fun s => ⟨s.advance.haltNormal, rfl, advance_pc_toNat s, rfl, rfl,
    runFor_of_halted (fun h => by cases h)⟩⟩

/-! ### Jumps -/

theorem jumpIf_frame (s : State) (b : Bool) (off : Int) : s.jumpIf b off = { s with pc := (s.jumpIf b off).pc } := by
  rw [jumpIf_eq]
  rfl

theorem pcJumped_jumpIf (s : State) (off : Int) : PcJumped off s (s.jumpIf true off) := pcJumped_of_pc_eq rfl

theorem pcAdvanced_jumpIf (s : State) (off : Int) : PcAdvanced s (s.jumpIf false off) := pcAdvanced_of_pc_eq rfl

/-- Rule R80: the target if the condition holds, the default next pc if not. -/
theorem jumpIf_pc {s : State} {b : Bool} {cond : Prop} [Decidable cond] (h : b = true ↔ cond) (off : Int) :
    if cond then PcJumped off s (s.jumpIf b off) else PcAdvanced s (s.jumpIf b off) := by
  cases b with
  | true => rw [if_pos (h.mp rfl)]; exact pcJumped_jumpIf s off
  | false => rw [if_neg (mt h.mpr Bool.false_ne_true)]; exact pcAdvanced_jumpIf s off

theorem isEqual_iff (f : Flags) : f.isEqual = true ↔ f.z = true ∧ f.s = false := by
  simp [Flags.isEqual]

theorem isLess_iff (f : Flags) : f.isLess = true ↔ f.z = false ∧ f.s = true := by
  simp [Flags.isLess]

theorem isGreater_iff (f : Flags) : f.isGreater = true ↔ f.z = false ∧ f.s = false := by
  simp [Flags.isGreater]

/-- Settles O20: each jump is `jumpIf` on its condition. -/
theorem jumpsBranchOnTheirCondition : Obligations.JumpsBranchOnTheirCondition := fun s off =>
  ⟨⟨_, rfl, jumpIf_frame s _ off, pcJumped_jumpIf s off⟩,
   ⟨_, rfl, jumpIf_frame s _ off, jumpIf_pc (isEqual_iff s.flags) off⟩,
   ⟨_, rfl, jumpIf_frame s _ off, jumpIf_pc (isLess_iff s.flags) off⟩,
   ⟨_, rfl, jumpIf_frame s _ off, jumpIf_pc (isGreater_iff s.flags) off⟩⟩

theorem cmpFlags_isEqual_iff (a b : Word) (f : Flags) : (cmpFlags a b f).isEqual = true ↔ a.toNat = b.toNat := by
  rw [isEqual_iff, cmpFlags_z, cmpFlags_s, decide_eq_true_iff, decide_eq_false_iff_not, ← BitVec.toNat_inj]
  omega

theorem cmpFlags_isLess_iff (a b : Word) (f : Flags) : (cmpFlags a b f).isLess = true ↔ a.toNat < b.toNat := by
  rw [isLess_iff, cmpFlags_z, cmpFlags_s, decide_eq_true_iff, decide_eq_false_iff_not, ← BitVec.toNat_inj]
  omega

theorem cmpFlags_isGreater_iff (a b : Word) (f : Flags) : (cmpFlags a b f).isGreater = true ↔ a.toNat > b.toNat := by
  rw [isGreater_iff, cmpFlags_z, cmpFlags_s, decide_eq_false_iff_not, decide_eq_false_iff_not, ← BitVec.toNat_inj]
  omega

/-- Settles O45: on the flags of CMP each condition is its comparison. -/
theorem conditionalJumpsAfterCmp : Obligations.ConditionalJumpsAfterCmp := by
  intro s t rs rt off h
  cases h
  exact ⟨⟨_, rfl, jumpIf_frame _ _ off, jumpIf_pc (cmpFlags_isEqual_iff _ _ s.flags) off⟩,
    ⟨_, rfl, jumpIf_frame _ _ off, jumpIf_pc (cmpFlags_isLess_iff _ _ s.flags) off⟩,
    ⟨_, rfl, jumpIf_frame _ _ off, jumpIf_pc (cmpFlags_isGreater_iff _ _ s.flags) off⟩⟩

/-- The jumps whose condition fails go on to the next instruction. -/
theorem exec_not_taken {s : State} {c : Int → Instr} (heq : .jeq ≠ c → s.flags.isEqual = false)
    (hlt : .jlt ≠ c → s.flags.isLess = false) (hgt : .jgt ≠ c → s.flags.isGreater = false) :
    ∀ d ∈ [Instr.jeq, .jlt, .jgt], d ≠ c → ∀ off, ∃ t, exec (d off) s = .next t ∧ PcAdvanced s t := by
  intro d hd hne off
  simp only [List.mem_cons, List.not_mem_nil, or_false] at hd
  obtain rfl | rfl | rfl := hd
  · exact ⟨s.jumpIf false off, heq hne ▸ rfl, pcAdvanced_jumpIf s off⟩
  · exact ⟨s.jumpIf false off, hlt hne ▸ rfl, pcAdvanced_jumpIf s off⟩
  · exact ⟨s.jumpIf false off, hgt hne ▸ rfl, pcAdvanced_jumpIf s off⟩

/-- Settles O46: Z alone, S alone or neither is set, and these are the three conditions. -/
theorem exactlyOneConditionalJumpTaken : Obligations.ExactlyOneConditionalJumpTaken := by
  intro s hs
  have hex := hs.flags_exclusive
  cases hz : s.flags.z <;> cases hsg : s.flags.s
  · have h : s.flags.isGreater = true := by simp [Flags.isGreater, hz, hsg]
    refine ⟨.jgt, by simp, fun off => ⟨s.jumpIf true off, h ▸ rfl, pcJumped_jumpIf s off⟩, exec_not_taken ?_ ?_ ?_⟩ <;>
      simp [Flags.isEqual, Flags.isLess, hz, hsg]
  · have h : s.flags.isLess = true := by simp [Flags.isLess, hz, hsg]
    refine ⟨.jlt, by simp, fun off => ⟨s.jumpIf true off, h ▸ rfl, pcJumped_jumpIf s off⟩, exec_not_taken ?_ ?_ ?_⟩ <;>
      simp [Flags.isEqual, Flags.isGreater, hz, hsg]
  · have h : s.flags.isEqual = true := by simp [Flags.isEqual, hz, hsg]
    refine ⟨.jeq, by simp, fun off => ⟨s.jumpIf true off, h ▸ rfl, pcJumped_jumpIf s off⟩, exec_not_taken ?_ ?_ ?_⟩ <;>
      simp [Flags.isLess, Flags.isGreater, hz, hsg]
  · exact absurd ⟨hz, hsg⟩ hex

/-! ### Moves and memory -/

theorem writeBack_reg_same (s : State) (rd : Reg) (v : Word) : (s.writeBack rd v).reg rd = v :=
  s.reg_setReg_same rd v

/-- What a write-back leaves unchanged (rule R13). -/
theorem writeBack_frame (s : State) (rd : Reg) (v : Word) :
    SameRegsBut rd s (s.writeBack rd v) ∧ PcAdvanced s (s.writeBack rd v) ∧
      s.writeBack rd v = { s with pc := (s.writeBack rd v).pc, regs := (s.writeBack rd v).regs } :=
  ⟨fun _ => reg_writeBack_of_ne s v, advance_pc_toNat _, rfl⟩

/-- Settles O21: both are write-backs, and the pattern packs opcode 3. -/
theorem movesWriteDestination : Obligations.MovesWriteDestination := fun s =>
  ⟨fun rd _ => ⟨_, rfl, writeBack_reg_same s rd _, writeBack_frame s rd _⟩,
   fun rd imm => ⟨_, rfl, writeBack_reg_same s rd imm, writeBack_frame s rd imm⟩, decode_movi_pattern⟩

/-- Settles O22: LDR is a write-back of the slot its address register names. -/
theorem ldrReadsDataSlot : Obligations.LdrReadsDataSlot := fun s rd _ =>
  ⟨_, rfl, writeBack_reg_same s rd _, writeBack_frame s rd _⟩

/-- What a store does and leaves unchanged (rules R92, R93). -/
theorem store_spec (s : State) (a v : Word) :
    (s.dataWrite a v).advance.dataRead a = v ∧ SameDataBut a s (s.dataWrite a v).advance :=
  ⟨s.dataRead_dataWrite_same a v, fun b => s.dataRead_dataWrite_of_ne a b v⟩

/-- Settles O23: both stores are one write to the address register's slot. -/
theorem storesWriteOneDataSlot : Obligations.StoresWriteOneDataSlot := by
  rintro s rs a rfl
  refine ⟨rfl, fun rt => ⟨_, rfl, ?_⟩, fun imm => ⟨_, rfl, ?_⟩⟩
  · obtain ⟨hread, hsame⟩ := store_spec s (s.reg rs) (s.reg rt)
    exact ⟨hread, hsame, advance_pc_toNat s, rfl⟩
  · obtain ⟨hread, hsame⟩ := store_spec s (s.reg rs) imm
    exact ⟨hread, hsame, advance_pc_toNat s, rfl⟩

theorem sub_one_ne (a : Word) : a - 1 ≠ a := by bv_omega

theorem add_one_ne (a : Word) : a + 1 ≠ a := by bv_omega

/-- Settles O24: the neighbours of an address are other addresses. -/
theorem dataAccessesNeedNoAlignment : Obligations.DataAccessesNeedNoAlignment := by
  rintro s a v rd rs rt rfl
  refine ⟨⟨_, rfl, ?_⟩, ⟨_, rfl, ?_⟩, ⟨_, rfl, writeBack_reg_same s rd _, fun _ => rfl⟩⟩
  · obtain ⟨hread, hsame⟩ := store_spec s (s.reg rs) (s.reg rt)
    exact ⟨hread, hsame _ (sub_one_ne _), hsame _ (add_one_ne _), hsame⟩
  · obtain ⟨hread, hsame⟩ := store_spec s (s.reg rs) v
    exact ⟨hread, hsame _ (sub_one_ne _), hsame _ (add_one_ne _), hsame⟩

/-- Settles O48: the load's address register still holds its value after the store. -/
theorem storeThenLoad : Obligations.StoreThenLoad := by
  intro s t ra rt rb rd h
  cases h
  exact ⟨_, rfl, (writeBack_reg_same _ rd _).trans (s.dataRead_dataWrite (s.reg ra) (s.reg rb) (s.reg rt))⟩

/-! ### The ALU -/

theorem addOverflow_iff (a b r : Word) :
    addOverflow a b r = true ↔ a.getLsbD 15 = b.getLsbD 15 ∧ r.getLsbD 15 ≠ a.getLsbD 15 := by
  simp [addOverflow, sign, BitVec.msb_eq_getLsbD_last]

theorem subOverflow_iff (a b r : Word) :
    subOverflow a b r = true ↔ a.getLsbD 15 ≠ b.getLsbD 15 ∧ r.getLsbD 15 ≠ a.getLsbD 15 := by
  simp [subOverflow, sign, BitVec.msb_eq_getLsbD_last]

theorem eq_zero_iff_toNat (v : Word) : v = 0 ↔ v.toNat = 0 :=
  BitVec.toNat_inj.symm

/-- What every ALU instruction does but for its result, C and Ov (rule R100). -/
theorem aluWriteBack_spec (s : State) (op : AluOp) (rd : Reg) (a b : Word) {t : State} (h : t = s.aluWriteBack op rd a b) :
    (t.flags.z = true ↔ (t.reg rd).toNat = 0) ∧ t.flags.s = (t.reg rd).getLsbD 15 ∧ SameRegsBut rd s t ∧
      PcAdvanced s t ∧ t = { s with pc := t.pc, regs := t.regs, flags := t.flags } := by
  subst h
  refine ⟨?_, ?_, fun _ => reg_aluWriteBack_of_ne s op a b, advance_pc_toNat s, rfl⟩
  · rw [aluWriteBack_flags, aluWriteBack_reg_same, aluFlags_z_iff, eq_zero_iff_toNat]
  · rw [aluWriteBack_flags, aluWriteBack_reg_same, aluFlags_s_eq_bit]

theorem aluResult_add_toNat (a b : Word) : (aluResult .add a b).toNat = (a.toNat + b.toNat) % 0x10000 :=
  BitVec.toNat_ofNat _ _

theorem aluResult_sub_toNat (a b : Word) : ((aluResult .sub a b).toNat : Int) = (a.toNat - b.toNat : Int) % 0x10000 := by
  rw [aluResult, BitVec.toNat_ofInt]
  omega

theorem aluResult_mul_toNat (a b : Word) : (aluResult .mul a b).toNat = (a.toNat * b.toNat) % 0x10000 :=
  BitVec.toNat_ofNat _ _

/-- Settles O25: the pattern packs opcode 8, and C, Ov and the sum are the ALU's. -/
theorem addResultAndFlags : Obligations.AddResultAndFlags := by
  refine ⟨fun rd rs rt x => ⟨decode_add_pattern rd rs rt x, congrArg (BitVec.ofNat 16) (by omega)⟩,
    fun s rd rs rt => ⟨_, rfl, ?_, decide_eq_true_iff, ?_, aluWriteBack_spec s .add rd _ _ rfl⟩⟩
  · rw [aluWriteBack_reg_same, aluResult_add_toNat]
  · rw [aluWriteBack_reg_same]
    exact addOverflow_iff _ _ _

/-- Settles O26: C is the borrow and Ov the sign formula, both as the ALU defines them. -/
theorem subResultAndFlags : Obligations.SubResultAndFlags := by
  refine fun s rd rs rt => ⟨_, rfl, ?_, decide_eq_true_iff, ?_, aluWriteBack_spec s .sub rd _ _ rfl⟩
  · rw [aluWriteBack_reg_same, aluResult_sub_toNat]
  · rw [aluWriteBack_reg_same]
    exact subOverflow_iff _ _ _

/-- Settles O27: Ov is the formula of ADD on the truncated product. -/
theorem mulResultAndFlags : Obligations.MulResultAndFlags := by
  refine fun s rd rs rt => ⟨_, rfl, ?_, decide_eq_true_iff, ?_, aluWriteBack_spec s .mul rd _ _ rfl⟩
  · rw [aluWriteBack_reg_same, aluResult_mul_toNat]
  · rw [aluWriteBack_reg_same]
    exact addOverflow_iff _ _ _

/-- A word is zero exactly if every bit is. -/
theorem eq_zero_iff_bits (v : Word) : v = 0 ↔ ∀ n, n < 16 → v.getLsbD n = false := by
  refine ⟨fun h n _ => by simp [h], fun h => BitVec.eq_of_getLsbD_eq fun n hn => ?_⟩
  rw [h n hn]
  simp

/-- A logic instruction whose result has the bits `f` (rules R104 to R107). -/
theorem logic_spec (s : State) {op : AluOp} (rd : Reg) {a b : Word} {f : Nat → Bool}
    (hbits : ∀ n, n < 16 → (aluResult op a b).getLsbD n = f n) (hc : aluCarry op a b = false)
    (hov : aluOverflow op a b = false) {t : State} (ht : t = s.aluWriteBack op rd a b) :
    (∀ n, n < 16 → (t.reg rd).getLsbD n = f n) ∧
      t.flags.c = false ∧ t.flags.ov = false ∧ (t.flags.z = true ↔ ∀ n, n < 16 → (t.reg rd).getLsbD n = false) ∧
      t.flags.s = (t.reg rd).getLsbD 15 ∧ SameRegsBut rd s t ∧ PcAdvanced s t ∧
      t = { s with pc := t.pc, regs := t.regs, flags := t.flags } := by
  obtain ⟨hz, hrest⟩ := aluWriteBack_spec s op rd a b ht
  rw [← eq_zero_iff_toNat, eq_zero_iff_bits] at hz
  subst ht
  exact ⟨fun n hn => by rw [aluWriteBack_reg_same, hbits n hn], hc, hov, hz, hrest⟩

/-- Rule R106: `0xFFFF - v` complements every bit. -/
theorem getLsbD_aluResult_not (a b : Word) {n : Nat} (hn : n < 16) : (aluResult .not a b).getLsbD n = !a.getLsbD n := by
  have h : aluResult .not a b = ~~~a := by
    refine BitVec.eq_of_toNat_eq ?_
    rw [aluResult, BitVec.toNat_ofNat, BitVec.toNat_not]
    omega
  simp [h, hn]

/-- Settles O28: each result bit by bit, C and Ov 0 by the definition of the ALU. -/
theorem logicResultsAndFlags : Obligations.LogicResultsAndFlags := by
  intro s rd rs rt c hc
  simp only [List.mem_cons, List.not_mem_nil, or_false] at hc
  obtain rfl | rfl | rfl | rfl := hc
  · exact ⟨_, rfl, logic_spec s rd (op := .and) (fun _ _ => BitVec.getLsbD_and) rfl rfl rfl⟩
  · exact ⟨_, rfl, logic_spec s rd (op := .or) (fun _ _ => BitVec.getLsbD_or) rfl rfl rfl⟩
  · exact ⟨_, rfl, logic_spec s rd (op := .xor) (fun _ _ => BitVec.getLsbD_xor) rfl rfl rfl⟩
  · exact ⟨_, rfl, logic_spec s rd (op := .not) (fun _ hn => getLsbD_aluResult_not _ _ hn) rfl rfl rfl⟩

/-! ### Shifts -/

theorem getLsbD_ofNat_of_lt (n : Nat) {j : Nat} (hj : j < 16) : (BitVec.ofNat 16 n).getLsbD j = n.testBit j := by
  rw [BitVec.getLsbD_ofNat, decide_eq_true hj, Bool.true_and]

theorem getLsbD_shiftRight (v : Word) (n : Nat) {j : Nat} (hj : j < 16) :
    (shiftRight v n).getLsbD j = v.getLsbD (j + n) := by
  unfold shiftRight
  split_ifs with h
  · rw [BitVec.getLsbD_of_ge v (j + n) (by omega)]
    simp
  · rw [getLsbD_ofNat_of_lt _ hj, Nat.testBit_div_two_pow, BitVec.testBit_toNat]

theorem getLsbD_shiftLeft (v : Word) (n : Nat) {j : Nat} (hj : j < 16) :
    (shiftLeft v n).getLsbD j = (decide (n ≤ j) && v.getLsbD (j - n)) := by
  unfold shiftLeft
  split_ifs with h
  · simp [show ¬ n ≤ j by omega]
  · rw [getLsbD_ofNat_of_lt _ hj, Nat.testBit_mul_two_pow, BitVec.testBit_toNat]

/-- Settles O30: from 16 on both sides are 0, below it the bits of a quotient or product by a power of two. -/
theorem shiftsAreLogical : Obligations.ShiftsAreLogical := by
  refine fun s rd rs n => ⟨⟨_, rfl, ?_, ?_, writeBack_frame s rd _⟩, ⟨_, rfl, ?_, ?_, writeBack_frame s rd _⟩⟩ <;>
    rw [writeBack_reg_same]
  · exact fun _ => getLsbD_shiftRight _ n
  · exact fun hn => if_pos hn
  · exact fun _ => getLsbD_shiftLeft _ n
  · exact fun hn => if_pos hn

/-! ### Rotations -/

theorem getLsbD_rotateRight (v : Word) {j : Nat} (hj : j < 16) :
    (rotateRight v).getLsbD j = v.getLsbD ((j + 1) % 16) := by
  have hlow : v.toNat / 2 < 2 ^ 15 := by omega
  have e : v.toNat % 2 * 0x8000 + v.toNat / 2 = 2 ^ 15 * (v.toNat % 2) + v.toNat / 2 := by omega
  rw [rotateRight, getLsbD_ofNat_of_lt _ hj, e, Nat.testBit_two_pow_mul_add _ hlow]
  split_ifs with h
  · rw [← Nat.testBit_succ, Nat.mod_eq_of_lt (by omega), BitVec.testBit_toNat]
  · obtain rfl : j = 15 := by omega
    exact (Nat.testBit_mod_two_pow _ 1 0).trans (BitVec.testBit_toNat v)

theorem getLsbD_rotateLeft (v : Word) {j : Nat} (hj : j < 16) :
    (rotateLeft v).getLsbD ((j + 1) % 16) = v.getLsbD j := by
  have hlow : v.toNat / 2 ^ 15 < 2 ^ 1 := by omega
  have e : v.toNat % 0x8000 * 2 + v.toNat / 0x8000 = 2 ^ 1 * (v.toNat % 2 ^ 15) + v.toNat / 2 ^ 15 := by omega
  rw [rotateLeft, getLsbD_ofNat_of_lt _ (Nat.mod_lt _ (by decide)), e, Nat.testBit_two_pow_mul_add _ hlow]
  split_ifs with h
  · obtain rfl : j = 15 := by omega
    rw [Nat.testBit_div_two_pow, BitVec.testBit_toNat]
  · have hj' : (j + 1) % 16 - 1 = j := by omega
    rw [hj', Nat.testBit_mod_two_pow, decide_eq_true (by omega), Bool.true_and, BitVec.testBit_toNat]

/-- Settles O31: bit 0 goes to the top, the rest one place down, and the reverse. -/
theorem rotatesMoveBitsByOne : Obligations.RotatesMoveBitsByOne := by
  refine fun s rd rs => ⟨⟨_, rfl, ?_, writeBack_frame s rd _⟩, ⟨_, rfl, ?_, writeBack_frame s rd _⟩⟩ <;>
    rw [writeBack_reg_same]
  · exact fun _ => getLsbD_rotateRight _
  · exact fun _ => getLsbD_rotateLeft _

theorem rotateLeft_rotateRight (v : Word) : rotateLeft (rotateRight v) = v := by
  refine BitVec.eq_of_getLsbD_eq fun i hi => ?_
  obtain ⟨j, hj, rfl⟩ : ∃ j < 16, (j + 1) % 16 = i := ⟨(i + 15) % 16, by omega, by omega⟩
  rw [getLsbD_rotateLeft _ hj, getLsbD_rotateRight _ hj]

theorem rotateRight_rotateLeft (v : Word) : rotateRight (rotateLeft v) = v :=
  BitVec.eq_of_getLsbD_eq fun j hj => by rw [getLsbD_rotateRight _ hj, getLsbD_rotateLeft _ hj]

theorem getLsbD_rotateRight_iterate (n : Nat) (v : Word) {j : Nat} (hj : j < 16) :
    (rotateRight^[n] v).getLsbD j = v.getLsbD ((j + n) % 16) := by
  induction n generalizing v with
  | zero => rw [Function.iterate_zero_apply, Nat.add_zero, Nat.mod_eq_of_lt hj]
  | succ n ih =>
    rw [Function.iterate_succ_apply, ih, getLsbD_rotateRight _ (Nat.mod_lt _ (by decide))]
    congr 1
    omega

theorem rotateRight_sixteen (v : Word) : rotateRight^[16] v = v :=
  BitVec.eq_of_getLsbD_eq fun j hj => by
    rw [getLsbD_rotateRight_iterate 16 v hj, Nat.add_mod_right, Nat.mod_eq_of_lt hj]

theorem rotateLeft_sixteen (v : Word) : rotateLeft^[16] v = v := by
  have h : Function.LeftInverse rotateLeft^[16] rotateRight^[16] := Function.LeftInverse.iterate rotateLeft_rotateRight 16
  simpa only [rotateRight_sixteen] using h v

/-- An instruction that applies `f` to one register, executed `n` times. -/
theorem execTimes_of_writeBack {i : Instr} {r : Reg} {f : Word → Word}
    (hi : ∀ s, exec i s = .next (s.writeBack r (f (s.reg r)))) (n : Nat) (s : State) :
    ∃ t, execTimes n i s = .next t ∧ t.reg r = f^[n] (s.reg r) ∧ SameRegsBut r s t := by
  induction n generalizing s with
  | zero => exact ⟨s, rfl, rfl, fun _ _ => rfl⟩
  | succ n ih =>
    obtain ⟨t, ht, hreg, hbut⟩ := ih (s.writeBack r (f (s.reg r)))
    refine ⟨t, (execTimes_succ (hi s) n).trans ht, ?_, fun q hq => (hbut q hq).trans (reg_writeBack_of_ne s _ hq)⟩
    rw [hreg, writeBack_reg_same, Function.iterate_succ_apply]

theorem sameRegs_of_but {s t : State} {r : Reg} (hr : t.reg r = s.reg r) (h : SameRegsBut r s t) : SameRegs s t := by
  intro q
  by_cases hq : q = r
  · rw [hq, hr]
  · exact h q hq

/-- Two write-backs of one register, the second of the value it had. -/
theorem sameRegs_writeBack_twice (s : State) (r : Reg) {v w : Word} (hw : w = s.reg r) :
    SameRegs s ((s.writeBack r v).writeBack r w) :=
  sameRegs_of_but ((writeBack_reg_same _ r w).trans hw) fun _ hq =>
    (reg_writeBack_of_ne _ w hq).trans (reg_writeBack_of_ne s v hq)

/-- Settles O47: the two rotations are inverse, and sixteen times one place is once around the word. -/
theorem rotationsUndoEachOther : Obligations.RotationsUndoEachOther := by
  intro s r
  obtain ⟨t, ht, htr, htb⟩ := execTimes_of_writeBack (i := .ror r r) (f := rotateRight) (fun _ => rfl) 16 s
  obtain ⟨u, hu, hur, hub⟩ := execTimes_of_writeBack (i := .rol r r) (f := rotateLeft) (fun _ => rfl) 16 s
  refine ⟨⟨_, _, rfl, rfl, sameRegs_writeBack_twice s r ?_⟩, ⟨_, _, rfl, rfl, sameRegs_writeBack_twice s r ?_⟩,
    ⟨t, ht, sameRegs_of_but (htr.trans (rotateRight_sixteen _)) htb⟩,
    ⟨u, hu, sameRegs_of_but (hur.trans (rotateLeft_sixteen _)) hub⟩⟩
  · rw [writeBack_reg_same, rotateLeft_rotateRight]
  · rw [writeBack_reg_same, rotateRight_rotateLeft]

end Sys2Proof.Machine
end

section
/-! Reset, loading and the report (10_state.md section 8, 70_reset_and_hazards.md). -/

namespace Sys2Proof.Machine

/-- Settles O50 by reading the reset state. -/
theorem resetState : Obligations.ResetState :=
  ⟨fun p => ⟨_, rfl, State.resetWith_reg p, rfl, rfl, rfl, rfl, rfl, rfl, rfl, rfl, State.resetWith_progRead p,
    State.resetWith_dataRead p, State.resetWith_stackRead p, rfl⟩, resetParams, resetParams_valid, rfl⟩

/-- Rule R163: the last directive for an address wins, an address no directive names keeps its word. -/
theorem progRead_loadImage (s : State) (image : List (Word × Word)) (a : Word) :
    (s.loadImage image).progRead a =
      ((image.reverse.find? (fun d => d.1 == a)).map (fun d => d.2)).getD (s.progRead a) := by
  induction image generalizing s with
  | nil => rfl
  | cons d image ih =>
    rw [loadImage_cons, ih, List.reverse_cons, List.find?_append, State.progRead_load]
    cases image.reverse.find? (fun d => d.1 == a) with
    | some e => rfl
    | none =>
      by_cases h : a = d.1
      · simp [h]
      · simp [h, Ne.symm h]

/-- Settles O51 by induction on the image. -/
theorem loadPortLastDirectiveWins : Obligations.LoadPortLastDirectiveWins := by
  intro p image a
  obtain ⟨m, -, e⟩ := loadImage_spec (State.resetWith p) image rfl
  refine ⟨?_, ?_⟩
  · rw [State.boot, progRead_loadImage, State.resetWith_progRead]
  · rw [State.boot, e]

/-- Settles O52: the report is answered exactly in a halted state, from its own fields. -/
theorem reportAfterTheRun : Obligations.ReportAfterTheRun := by
  refine fun s => ⟨?_, fun r h => ?_⟩
  · unfold State.observe State.halted
    by_cases h : s.runState = .running <;> simp [h]
  · rw [eq_report_of_observe h]
    exact ⟨fun _ => rfl, rfl, rfl, rfl⟩

end Sys2Proof.Machine
end
